-- ==== Sys2Proof/Word.lean ====
section
/-! DEFINITION. The words of the block's interfaces: bytes, register values, dispatch keys and host operation words. -/

namespace Sys2Proof

/-- One byte of the packet buffer (spec R50). -/
abbrev Byte := BitVec 8

/-- A value on the 32-bit register interface (spec R20). -/
abbrev Word := BitVec 32

/-- The dispatch key `DKEY16 = B[0] ++ B[9]` (spec R82). -/
abbrev Key := BitVec 16

/-- A host operation word (spec R86). -/
abbrev HostWord := BitVec 64

end Sys2Proof
end

