-- ==== Sys2Proof/Syntax.lean ====
section
/-! DEFINITION. The instructions: one constructor per row of the opcode table, and the fixed sets of names that the
instructions and the state share. -/

namespace Sys2Proof

/-- The sixteen rows of spec/opcode_table.json. The first nine are the outcomes of the block's COMPLETE step, told apart
by the dispatch key and LEN_L (R82, R83); the next three are the values a CMD write can carry (R85); the last four are
the host operation words (R86). -/
inductive Instr where
  /-- IP_TRUNCATED (R101): fewer than 20 bytes; no byte is read. -/
  | ipTruncated
  /-- UNSUPPORTED_VERSION (R104): the version nibble is not 4. -/
  | unsupportedVersion (version : BitVec 4)
  /-- MALFORMED_IHL_0_3 (R107): header length 0 to 3 words. -/
  | malformedIhl03 (ihl : BitVec 4)
  /-- MALFORMED_IHL_4 (R107): header length 4 words. -/
  | malformedIhl4
  /-- MALFORMED_OVERLENGTH (R107): the header claims more bytes than the packet has. -/
  | malformedOverlength (ihl : BitVec 4)
  /-- DECODE_TCP (R133): protocol 6. -/
  | decodeTcp (ihl : BitVec 4)
  /-- DECODE_UDP (R135): protocol 17. -/
  | decodeUdp (ihl : BitVec 4)
  /-- DECODE_ICMP (R136): protocol 1. -/
  | decodeIcmp (ihl : BitVec 4)
  /-- DECODE_OTHER (R137): every other protocol. -/
  | decodeOther (ihl : BitVec 4) (proto : Byte)
  /-- START (R175): CMD value 1. -/
  | start
  /-- CMD_NOP (R176): CMD value 0. -/
  | cmdNop
  /-- CMD_RESERVED (R177): a CMD value with a bit of 31:1 set. -/
  | cmdReserved (v : Word)
  /-- WBUF (R172): write byte `d` at buffer address `a`. -/
  | wbuf (a : BitVec 24) (d : Byte)
  /-- WREG (R173 to R177): write `v` to register number `r`. -/
  | wreg (r : BitVec 24) (v : Word)
  /-- RREG (R178): read register number `r`. -/
  | rreg (r : BitVec 24)
  /-- WAIT (R179): hold the host until PHASE = DONE. -/
  | wait
  deriving DecidableEq, Repr

/-- The two agents of the ordering model (R63). -/
inductive Agent where
  | host
  | block
  deriving DecidableEq, Repr, Inhabited

/-- PHASE (R23). The value 3 is never held, so it has no name here. -/
inductive Phase where
  | idle
  | busy
  | done
  deriving DecidableEq, Repr

/-- The outcome a decode reports in ERR (R28, R200). -/
inductive ErrCode where
  | ok
  | truncated
  | unsupportedVersion
  | malformedHeader
  deriving DecidableEq, Repr

/-- The transport variant held in CLASS (R29). -/
inductive TransportClass where
  | other
  | icmp
  | tcp
  | udp
  deriving DecidableEq, Repr

/-- Why a 64-bit word spells no host operation (R86). -/
inductive HostWordReject where
  /-- Bits 63:56 are none of 1 to 4. -/
  | unknownOp
  /-- A field that must be 0 is not. -/
  | reservedFieldSet
  deriving DecidableEq, Repr

/-- A word of one of the three encodings (spec 30_encoding.md sections 3 and 4). -/
inductive Code where
  | key (k : Key)
  | cmd (v : Word)
  | host (w : HostWord)
  deriving DecidableEq, Repr

end Sys2Proof
end

