-- ==== Sys2Proof/Config.lean ====
section
/-! DEFINITION. The parameters an implementation fixes (spec R6) and the model's free values: opaque constants, so
that no proof can use a value of them. -/

namespace Sys2Proof.Config

/-- How far BUF_LEN_MAX lies above its least value 20; the type's bound is the parameter's constraint
`20 <= BUF_LEN_MAX <= 2^32 - 1` (R6, D3; log 3). -/
opaque bufLenExtra : Fin 4294967276

/-- BUF_LEN_MAX: the number of bytes of the packet buffer (R6, R7). -/
def bufLenMax : Nat := bufLenExtra.val + 20

/-- The entries of PROTO_NAME_ROM the source does not give (R160, D27; log 4). -/
opaque romOpen : Byte → Option String

/-- The capture time the host draws for its n-th packet, in milliseconds since midnight; the type's bound is
the host's duty (R6, D11; log 5). -/
opaque tsSource : Nat → Fin 86400000

/-- FREE VALUE: who moves after the n-th step, if both agents can (R63; log 2). -/
opaque nextMover : Nat → Agent

/-- FREE VALUE: what an unwritten buffer byte holds (R231; log 6). No path commits it: every read set is checked first. -/
opaque unwrittenByte : Nat → Byte

end Sys2Proof.Config
end

