-- ==== Sys2Proof/WellFormed.lean ====
section
/-! DEFINITION. Which terms of `Instr` are instructions: the operand values the opcode table's rows allow. -/

namespace Sys2Proof

/-- The operand conditions of each row's match, mask and guard that do not speak of LEN_L (R83, R85). The host words admit
every operand value (R86). -/
def Instr.wellFormed : Instr → Bool
  | .ipTruncated => true
  | .unsupportedVersion version => decide (version ≠ 4#4)
  | .malformedIhl03 ihl => decide (ihl.toNat < 4)
  | .malformedIhl4 => true
  | .malformedOverlength ihl => decide (5 ≤ ihl.toNat)
  | .decodeTcp ihl => decide (5 ≤ ihl.toNat)
  | .decodeUdp ihl => decide (5 ≤ ihl.toNat)
  | .decodeIcmp ihl => decide (5 ≤ ihl.toNat)
  | .decodeOther ihl proto => decide (5 ≤ ihl.toNat ∧ proto ≠ 1#8 ∧ proto ≠ 6#8 ∧ proto ≠ 17#8)
  | .start => true
  | .cmdNop => true
  | .cmdReserved v => decide (v.extractLsb' 1 31 ≠ 0#31)
  | .wbuf _ _ => true
  | .wreg _ _ => true
  | .rreg _ => true
  | .wait => true

end Sys2Proof
end

