-- ==== Sys2Proof/Decode.lean ====
section
/-! DEFINITION. The decoders of the three encodings (dispatch key with LEN_L, CMD value, host operation word), each
total and rejecting by name, and after them the encoder. -/

namespace Sys2Proof

/-! ### Host operation words (R86) -/

/-- `op = w[63:56]`. -/
def hostOp (w : HostWord) : BitVec 8 := w.extractLsb' 56 8

/-- `arg = w[55:32]`. -/
def hostArg (w : HostWord) : BitVec 24 := w.extractLsb' 32 24

/-- `data = w[31:0]`. -/
def hostData (w : HostWord) : Word := w.extractLsb' 0 32

/-- The host operation a 64-bit word spells, or why it spells none (R86). -/
def decodeHostWord (w : HostWord) : Except HostWordReject Instr :=
  if hostOp w = 0x01#8 then
    if (hostData w).extractLsb' 8 24 = 0#24 then .ok (.wbuf (hostArg w) ((hostData w).extractLsb' 0 8))
    else .error .reservedFieldSet
  else if hostOp w = 0x02#8 then .ok (.wreg (hostArg w) (hostData w))
  else if hostOp w = 0x03#8 then
    if hostData w = 0#32 then .ok (.rreg (hostArg w)) else .error .reservedFieldSet
  else if hostOp w = 0x04#8 then
    if hostArg w = 0#24 ∧ hostData w = 0#32 then .ok .wait else .error .reservedFieldSet
  else .error .unknownOp

/-! ### CMD values (R85) -/

/-- Bits 31:1 of a CMD value are reserved (R25, R85). -/
def cmdReservedBits (v : Word) : BitVec 31 := v.extractLsb' 1 31

/-- The command a value written to CMD spells; every value spells one (R85). -/
def decodeCmd (v : Word) : Instr :=
  if cmdReservedBits v ≠ 0#31 then .cmdReserved v
  else if v.getLsbD 0 then .start
  else .cmdNop

/-! ### Decode paths (R82, R83) -/

/-- `version = B[0][7:4]` (R72, R103). -/
def versionOf (vb : Byte) : BitVec 4 := vb.extractLsb' 4 4

/-- `ihl = B[0][3:0]` (R72, R105). -/
def ihlOf (vb : Byte) : BitVec 4 := vb.extractLsb' 0 4

/-- `hdr_bytes = ihl * 4` (R106). -/
def hdrBytesOf (ihl : BitVec 4) : Nat := ihl.toNat * 4

/-- `class_of` (R131). -/
def classOf (proto : Byte) : TransportClass :=
  if proto = 6#8 then .tcp
  else if proto = 17#8 then .udp
  else if proto = 1#8 then .icmp
  else .other

/-- The reject path the version/header-length byte selects in a packet of `len >= 20` bytes, if one does: lines 2 to 4
of R83 (R104, R107). -/
def headerPath (len : Nat) (vb : Byte) : Option Instr :=
  if versionOf vb ≠ 4#4 then some (.unsupportedVersion (versionOf vb))
  else if (ihlOf vb).toNat < 4 then some (.malformedIhl03 (ihlOf vb))
  else if ihlOf vb = 4#4 then some .malformedIhl4
  else if len < hdrBytesOf (ihlOf vb) then some (.malformedOverlength (ihlOf vb))
  else none

/-- The decode path the protocol number selects once the header checks have passed: lines 5 to 8 of R83 (R132). -/
def transportPath (ihl : BitVec 4) (proto : Byte) : Instr :=
  match classOf proto with
  | .tcp => .decodeTcp ihl
  | .udp => .decodeUdp ihl
  | .icmp => .decodeIcmp ihl
  | .other => .decodeOther ihl proto

/-- The path a dispatch key and a packet length select; every pair selects exactly one (R83). -/
def decodeKey (len : Nat) (key : Key) : Instr :=
  if len < 20 then .ipTruncated
  else (headerPath len (key.extractLsb' 8 8)).getD
    (transportPath (ihlOf (key.extractLsb' 8 8)) (key.extractLsb' 0 8))

/-- The path selected when a key byte may be unwritten (`none`): as `decodeKey`, reading B[0] only once the length check
has passed and B[9] only once the header checks have (R57, R142); `none` where a byte it must read is unwritten
(log 15). -/
def selectPath (len : Nat) (b0 b9 : Option Byte) : Option Instr :=
  if len < 20 then some .ipTruncated
  else
    match b0 with
    | none => none
    | some vb =>
      match headerPath len vb with
      | some i => some i
      | none => b9.map (transportPath (ihlOf vb))

/-! ### The decode rows of the opcode table (R82) -/

/-- One decode row of spec/opcode_table.json. -/
structure PathRow where
  priority : Nat
  mask : Key
  pattern : Key
  guard : Nat → Key → Bool
  instr : Key → Instr

/-- A row holds when its mask and match select the key and its guard holds of LEN_L and the key. -/
def PathRow.holds (row : PathRow) (len : Nat) (key : Key) : Bool :=
  decide (key &&& row.mask = row.pattern) && row.guard len key

/-- The guard `LEN_L >= 20 and 5 <= ihl and ihl * 4 <= LEN_L` of the DECODE rows. -/
def headerFits (len : Nat) (key : Key) : Bool :=
  decide (20 ≤ len ∧ 5 ≤ (key.extractLsb' 8 4).toNat ∧ (key.extractLsb' 8 4).toNat * 4 ≤ len)

/-- The nine decode rows, in the table's order, which is its priority order. -/
def pathTable : List PathRow := [
  { priority := 1, mask := 0x0000#16, pattern := 0x0000#16,
    guard := fun len _ => decide (len < 20), instr := fun _ => .ipTruncated },
  { priority := 2, mask := 0x0000#16, pattern := 0x0000#16,
    guard := fun len key => decide (20 ≤ len ∧ key.extractLsb' 12 4 ≠ 4#4),
    instr := fun key => .unsupportedVersion (key.extractLsb' 12 4) },
  { priority := 3, mask := 0xFC00#16, pattern := 0x4000#16,
    guard := fun len _ => decide (20 ≤ len), instr := fun key => .malformedIhl03 (key.extractLsb' 8 4) },
  { priority := 3, mask := 0xFF00#16, pattern := 0x4400#16,
    guard := fun len _ => decide (20 ≤ len), instr := fun _ => .malformedIhl4 },
  { priority := 4, mask := 0xF000#16, pattern := 0x4000#16,
    guard := fun len key => decide (20 ≤ len ∧ 5 ≤ (key.extractLsb' 8 4).toNat ∧ len < (key.extractLsb' 8 4).toNat * 4),
    instr := fun key => .malformedOverlength (key.extractLsb' 8 4) },
  { priority := 5, mask := 0xF0FF#16, pattern := 0x4006#16,
    guard := headerFits, instr := fun key => .decodeTcp (key.extractLsb' 8 4) },
  { priority := 5, mask := 0xF0FF#16, pattern := 0x4011#16,
    guard := headerFits, instr := fun key => .decodeUdp (key.extractLsb' 8 4) },
  { priority := 5, mask := 0xF0FF#16, pattern := 0x4001#16,
    guard := headerFits, instr := fun key => .decodeIcmp (key.extractLsb' 8 4) },
  { priority := 6, mask := 0xF000#16, pattern := 0x4000#16,
    guard := fun len key => headerFits len key && decide (classOf (key.extractLsb' 0 8) = .other),
    instr := fun key => .decodeOther (key.extractLsb' 8 4) (key.extractLsb' 0 8) }]

/-- The path the table selects: the first row, in priority order, whose mask, match and guard all hold (R82). -/
def tablePath (len : Nat) (key : Key) : Option Instr :=
  (pathTable.find? fun row => row.holds len key).map fun row => row.instr key

/-! ### All three encodings together -/

/-- The instruction a word of any of the three encodings spells. A dispatch key is read in a packet of `len` bytes. -/
def decodeCode (len : Nat) : Code → Except HostWordReject Instr
  | .key k => .ok (decodeKey len k)
  | .cmd v => .ok (decodeCmd v)
  | .host w => decodeHostWord w

/-- The word of the table's numbering: a row of 16 bits is a dispatch key, of 32 bits a CMD value, of 64 bits a host
operation word; no row has another width. -/
def tableCode (nbits w : Nat) : Option Code :=
  if nbits = 16 then some (.key (BitVec.ofNat 16 w))
  else if nbits = 32 then some (.cmd (BitVec.ofNat 32 w))
  else if nbits = 64 then some (.host (BitVec.ofNat 64 w))
  else none

/-- The packet length in which a dispatch key standing alone is read: the longest header and the longest transport
part the block reads, 60 + 16 bytes (log 14). -/
def tableLen : Nat := 76

/-- The instruction the decoders read from a row's bits (log 14). -/
def decodeTableWord (nbits w : Nat) : Option Instr :=
  match tableCode nbits w with
  | none => none
  | some c =>
    match decodeCode tableLen c with
    | .ok i => some i
    | .error _ => none

/-! ### The encoder -/

/-- The dispatch key of a packet with this version, header length and protocol (R82). -/
def encodeKey (version ihl : BitVec 4) (proto : Byte) : Key := version ++ ihl ++ proto

/-- A host operation word from its fields (R86). -/
def encodeHost (op : BitVec 8) (arg : BitVec 24) (data : Word) : HostWord := op ++ arg ++ data

/-- The word of a well-formed instruction. Key bits the row does not fix and the instruction does not carry are 0
(log 13). -/
def encode : Instr → Code
  | .ipTruncated => .key (encodeKey 0#4 0#4 0#8)
  | .unsupportedVersion version => .key (encodeKey version 0#4 0#8)
  | .malformedIhl03 ihl => .key (encodeKey 4#4 ihl 0#8)
  | .malformedIhl4 => .key (encodeKey 4#4 4#4 0#8)
  | .malformedOverlength ihl => .key (encodeKey 4#4 ihl 0#8)
  | .decodeTcp ihl => .key (encodeKey 4#4 ihl 6#8)
  | .decodeUdp ihl => .key (encodeKey 4#4 ihl 17#8)
  | .decodeIcmp ihl => .key (encodeKey 4#4 ihl 1#8)
  | .decodeOther ihl proto => .key (encodeKey 4#4 ihl proto)
  | .start => .cmd 1#32
  | .cmdNop => .cmd 0#32
  | .cmdReserved v => .cmd v
  | .wbuf a d => .host (encodeHost 0x01#8 a (0#24 ++ d))
  | .wreg r v => .host (encodeHost 0x02#8 r v)
  | .rreg r => .host (encodeHost 0x03#8 r 0#32)
  | .wait => .host (encodeHost 0x04#8 0#24 0#32)

/-- The LEN_L part of a decode row's guard (opcode table); the other instructions have none. -/
def Instr.lenGuard (len : Nat) : Instr → Bool
  | .ipTruncated => decide (len < 20)
  | .unsupportedVersion _ => decide (20 ≤ len)
  | .malformedIhl03 _ => decide (20 ≤ len)
  | .malformedIhl4 => decide (20 ≤ len)
  | .malformedOverlength ihl => decide (20 ≤ len ∧ len < hdrBytesOf ihl)
  | .decodeTcp ihl => decide (20 ≤ len ∧ hdrBytesOf ihl ≤ len)
  | .decodeUdp ihl => decide (20 ≤ len ∧ hdrBytesOf ihl ≤ len)
  | .decodeIcmp ihl => decide (20 ≤ len ∧ hdrBytesOf ihl ≤ len)
  | .decodeOther ihl _ => decide (20 ≤ len ∧ hdrBytesOf ihl ≤ len)
  | .start => true
  | .cmdNop => true
  | .cmdReserved _ => true
  | .wbuf _ _ => true
  | .wreg _ _ => true
  | .rreg _ => true
  | .wait => true

end Sys2Proof
end

