-- ==== Sys2Proof/Machine/State.lean ====
section
/-! DEFINITION. The state of the block and its host, as plain data; the state after reset; the reasons a step can stop. -/

namespace Sys2Proof.Machine

/-- Why an instruction stops the machine. -/
inductive Fault where
  /-- Raised by a meaning executed where its opcode table row's guard does not hold: a decode path in a state that does
  not select it (R82, R180), or CMD_RESERVED with no reserved bit set (R85). `step` never does this. Safe: the machine
  stops where the spec gives the instruction no effect (log 12). -/
  | guardNotMet
  deriving DecidableEq, Repr

/-- Why the model gives what stands before it no meaning. -/
inductive Refusal where
  /-- Raised by `exec` for an instruction the model has no meaning for. Safe. No instruction is left so. -/
  | notModelled (mnemonic : String)
  /-- Raised by the host's step for a 64-bit word that spells no operation: R86 has the decoder refuse it. Safe
  (log 25). -/
  | badHostWord (why : HostWordReject)
  deriving DecidableEq, Repr

/-- The host protocol violations (R171). Recording one is an effect in a next state, not a stop. -/
inductive HostFault where
  | badRegister
  | readOnly
  | reservedCmdBits
  | lenTooLarge
  | bufOutOfRange
  | bufWriteWhileBusy
  | startWhileBusy
  | readWhileBusy
  | unwrittenByte
  deriving DecidableEq, Repr

/-- The host-fault record: the set of reasons recorded so far (R48), one membership flag each. -/
structure FaultRecord where
  badRegister : Bool
  readOnly : Bool
  reservedCmdBits : Bool
  lenTooLarge : Bool
  bufOutOfRange : Bool
  bufWriteWhileBusy : Bool
  startWhileBusy : Bool
  readWhileBusy : Bool
  unwrittenByte : Bool
  deriving DecidableEq, Repr

/-- No fault recorded. -/
def FaultRecord.empty : FaultRecord where
  badRegister := false
  readOnly := false
  reservedCmdBits := false
  lenTooLarge := false
  bufOutOfRange := false
  bufWriteWhileBusy := false
  startWhileBusy := false
  readWhileBusy := false
  unwrittenByte := false

/-- One event of the host's program, in the order the host performs them (R63; log 1). -/
inductive HostEvent where
  /-- A host operation word (R86). -/
  | word (w : HostWord)
  /-- A value written to the CMD register, as R85 decodes it (log 11). -/
  | cmd (v : Word)
  /-- WBUF of any address, a natural (R172), in place of the host encoding that R86 leaves undefined for addresses of 2^24
  and above: DESIGN CHOICE (log 23). -/
  | byteWrite (a : Nat) (d : Byte)
  /-- The reset input is asserted (R230; log 10). -/
  | reset
  /-- The capture loop reads the results and, if they are a decoded packet, writes one line (R182 steps 4 and 5;
  log 20). -/
  | emit (verbose : Bool)
  deriving DecidableEq, Repr

/-- The result registers, numbers 4 to 33, each of its field's width (R21, R42). -/
structure Results where
  err : ErrCode
  cls : TransportClass
  version : BitVec 4
  ihl : BitVec 4
  hdrBytes : BitVec 6
  dscp : BitVec 6
  ecn : BitVec 2
  totalLen : BitVec 16
  ident : BitVec 16
  flagRsv : BitVec 1
  flagDf : BitVec 1
  flagMf : BitVec 1
  fragOff : BitVec 13
  ttl : BitVec 8
  proto : BitVec 8
  hdrCksum : BitVec 16
  srcAddr : BitVec 32
  dstAddr : BitVec 32
  srcPort : BitVec 16
  dstPort : BitVec 16
  tcpSeq : BitVec 32
  tcpAck : BitVec 32
  tcpDoff : BitVec 4
  tcpFlags : BitVec 6
  tcpWin : BitVec 16
  udpLen : BitVec 16
  icmpType : BitVec 8
  icmpCode : BitVec 8
  tsOut : BitVec 32
  protoKnown : BitVec 1
  deriving DecidableEq, Repr

/-- Every result register 0: the reset value (R47). -/
def Results.zero : Results where
  err := .ok
  cls := .other
  version := 0
  ihl := 0
  hdrBytes := 0
  dscp := 0
  ecn := 0
  totalLen := 0
  ident := 0
  flagRsv := 0
  flagDf := 0
  flagMf := 0
  fragOff := 0
  ttl := 0
  proto := 0
  hdrCksum := 0
  srcAddr := 0
  dstAddr := 0
  srcPort := 0
  dstPort := 0
  tcpSeq := 0
  tcpAck := 0
  tcpDoff := 0
  tcpFlags := 0
  tcpWin := 0
  udpLen := 0
  icmpType := 0
  icmpCode := 0
  tsOut := 0
  protoKnown := 0

/-- The packet buffer: the bytes written since reset, by strictly rising address. An unlisted address is unwritten and
has no value (R49, R69; log 6). -/
abbrev Memory := List Host.Cell

/-- The block, its host and the model's bookkeeping. -/
structure State where
  /-- PHASE, register 3 (R23). -/
  phase : Phase
  /-- LEN, register 1 (R26). -/
  len : Word
  /-- TS_IN, register 2 (R27). -/
  tsIn : Word
  /-- LEN_L, the length latched at START (R43). -/
  lenL : Word
  /-- TS_L, the timestamp latched at START (R43). -/
  tsL : Word
  /-- Registers 4 to 33 (R42). -/
  results : Results
  /-- The packet buffer with its written-flags (R44, R49). -/
  buffer : Memory
  /-- The host-fault record (R48). -/
  hostFaults : FaultRecord
  /-- What the host has still to do, in order (R63; log 1). -/
  hostQueue : List HostEvent
  /-- The values RREG operations returned, oldest first (R181). -/
  hostReads : List Word
  /-- The lines a capture loop wrote, oldest first, each as its tokens (R181, R183). -/
  lines : List (List String)
  /-- MODEL'S OWN: who moves next, if both agents can (R63; log 2). -/
  turn : Agent
  /-- MODEL'S OWN: how many turns have been drawn from the free value `Config.nextMover` (log 2). -/
  tick : Nat
  deriving DecidableEq, Repr

/-- The machine right after power-up and reset (R47, R230), with no host program loaded and nothing recorded
(log 1, log 2, log 7). -/
def State.reset : State where
  phase := .idle
  len := 0
  tsIn := 0
  lenL := 0
  tsL := 0
  results := Results.zero
  buffer := []
  hostFaults := FaultRecord.empty
  hostQueue := []
  hostReads := []
  lines := []
  turn := .host
  tick := 0

end Sys2Proof.Machine
end

