-- ==== Sys2Proof/Machine/Ops.lean ====
section
/-! DEFINITION. The named operations over the buffer and the state: field updates, buffer reads and writes, the
host-fault record, START, the reset input, and the two ways a decode ends. -/

namespace Sys2Proof.Machine

/-! ### The buffer as a list of written bytes -/

/-- The byte written at `a` since reset, if one was (R49). -/
def Memory.read? : Memory → Nat → Option Byte
  | [], _ => none
  | (k, v) :: rest, a => if a = k then some v else Memory.read? rest a

/-- MemWrite(a, 1, v) with its written-flag (R172), keeping addresses strictly rising. -/
def Memory.write : Memory → Nat → Byte → Memory
  | [], a, v => [(a, v)]
  | (k, w) :: rest, a, v =>
    if a < k then (a, v) :: (k, w) :: rest
    else if a = k then (a, v) :: rest
    else (k, w) :: Memory.write rest a v

/-- The canonical form, after a first address: the rest rises strictly above it. -/
def Memory.risesAbove : Nat → Memory → Bool
  | _, [] => true
  | k, (a, _) :: rest => decide (k < a) && Memory.risesAbove a rest

/-- The canonical form: addresses strictly rising. No entry can equal what an unlisted address reads as, since that is
no value. -/
def Memory.wf : Memory → Bool
  | [] => true
  | (a, _) :: rest => Memory.risesAbove a rest

/-- Every listed address is below `n`. -/
def Memory.below (m : Memory) (n : Nat) : Bool := m.all fun cell => decide (cell.1 < n)

/-! ### The host-fault record (R48) -/

/-- Is this reason recorded? -/
def FaultRecord.has (f : FaultRecord) : HostFault → Bool
  | .badRegister => f.badRegister
  | .readOnly => f.readOnly
  | .reservedCmdBits => f.reservedCmdBits
  | .lenTooLarge => f.lenTooLarge
  | .bufOutOfRange => f.bufOutOfRange
  | .bufWriteWhileBusy => f.bufWriteWhileBusy
  | .startWhileBusy => f.startWhileBusy
  | .readWhileBusy => f.readWhileBusy
  | .unwrittenByte => f.unwrittenByte

/-- Add a reason to the record; nothing is ever taken out (R171). -/
def FaultRecord.record (f : FaultRecord) : HostFault → FaultRecord
  | .badRegister => { f with badRegister := true }
  | .readOnly => { f with readOnly := true }
  | .reservedCmdBits => { f with reservedCmdBits := true }
  | .lenTooLarge => { f with lenTooLarge := true }
  | .bufOutOfRange => { f with bufOutOfRange := true }
  | .bufWriteWhileBusy => { f with bufWriteWhileBusy := true }
  | .startWhileBusy => { f with startWhileBusy := true }
  | .readWhileBusy => { f with readWhileBusy := true }
  | .unwrittenByte => { f with unwrittenByte := true }

/-! ### Field updates of the state -/

/-- Set PHASE. -/
def State.setPhase (s : State) (p : Phase) : State := { s with phase := p }

/-- Set LEN. -/
def State.setLen (s : State) (v : Word) : State := { s with len := v }

/-- Set TS_IN. -/
def State.setTsIn (s : State) (v : Word) : State := { s with tsIn := v }

/-- Copy LEN to LEN_L and TS_IN to TS_L (R43). -/
def State.latchInputs (s : State) : State := { s with lenL := s.len, tsL := s.tsIn }

/-- Write every result register at once (R42). -/
def State.setResults (s : State) (r : Results) : State := { s with results := r }

/-- Replace the buffer. -/
def State.setBuffer (s : State) (m : Memory) : State := { s with buffer := m }

/-- `fault HostFault.<name>`: record a host protocol violation (R9, R171). -/
def State.recordFault (s : State) (f : HostFault) : State := { s with hostFaults := s.hostFaults.record f }

/-- The host goes on to its next event. -/
def State.retire (s : State) : State := { s with hostQueue := s.hostQueue.tail }

/-- An RREG operation returns a value (R178). -/
def State.returnRead (s : State) (v : Word) : State := { s with hostReads := s.hostReads ++ [v] }

/-- The capture loop writes a line (R182). -/
def State.writeLine (s : State) (tokens : List String) : State := { s with lines := s.lines ++ [tokens] }

/-- Draw who moves next from the free value (R63; log 2). -/
def State.drawTurn (s : State) : State := { s with turn := Config.nextMover s.tick, tick := s.tick + 1 }

/-! ### Buffer reads (R9, R52) -/

/-- The byte written at buffer address `a` since reset, if one was. -/
def State.byte? (s : State) (a : Nat) : Option Byte := s.buffer.read? a

/-- `B[a]`. Only used for addresses of a read set that has been checked (R180): an unwritten byte has no value, and its
place is held by a free one (log 6). -/
def State.byteAt (s : State) (a : Nat) : Byte := (s.byte? a).getD (Config.unwrittenByte a)

/-- `MemRead(a, 2)` of a buffer `B`, most significant byte first (R9, R52). -/
def memRead16 (B : Nat → Byte) (a : Nat) : BitVec 16 := B a ++ B (a + 1)

/-- `MemRead(a, 4)` of a buffer `B`, most significant byte first (R9, R52). -/
def memRead32 (B : Nat → Byte) (a : Nat) : BitVec 32 := B a ++ B (a + 1) ++ B (a + 2) ++ B (a + 3)

/-- The written-flag of every byte of a read set is set (R180). -/
def State.allWritten (s : State) (reads : List Nat) : Bool := reads.all fun a => (s.byte? a).isSome

/-! ### Host writes (R172 to R177) -/

/-- WBUF (R172): the range check comes before the phase check. -/
def State.hostWriteByte (s : State) (a : Nat) (v : Byte) : State :=
  if Config.bufLenMax ≤ a then s.recordFault .bufOutOfRange
  else if s.phase = .busy then s.recordFault .bufWriteWhileBusy
  else s.setBuffer (s.buffer.write a v)

/-- WREG LEN (R173). -/
def State.hostWriteLen (s : State) (v : Word) : State :=
  if Config.bufLenMax < v.toNat then s.recordFault .lenTooLarge else s.setLen v

/-- START (R175): latch the inputs and become BUSY. -/
def State.startDecode (s : State) : State :=
  if s.phase = .busy then s.recordFault .startWhileBusy else s.latchInputs.setPhase .busy

/-- A write to CMD (R85, R175 to R177). -/
def State.hostWriteCmd (s : State) (v : Word) : State :=
  if cmdReservedBits v ≠ 0#31 then s.recordFault .reservedCmdBits
  else if v.getLsbD 0 then s.startDecode
  else s

/-- The reset input (R230): everything R47 lists takes its reset value; the host-fault record survives (R48), and so does
what the host has observed and has still to do. -/
def State.assertReset (s : State) : State :=
  { s with
    phase := .idle, len := 0, tsIn := 0, lenL := 0, tsL := 0, results := Results.zero, buffer := [] }

/-! ### How a decode ends: entry on an error, success, and the unwritten byte -/

/-- The registers commit_err(E) leaves: the code in ERR, 0 in every other (R141). -/
def Results.ofError (e : ErrCode) : Results := { Results.zero with err := e }

/-- `commit_err(E)`, the entry on an error: the results are replaced and PHASE becomes DONE; nothing is saved, no handler
is entered (R141, R206). The return from an error is the next START (R208), `State.startDecode`. -/
def State.commitErr (s : State) (e : ErrCode) : State := (s.setResults (Results.ofError e)).setPhase .done

/-- The completion of a decode whose read set holds an unwritten byte (R180, R209). -/
def State.completeUnwritten (s : State) : State := (s.recordFault .unwrittenByte).setPhase .done

/-- COMPLETE (R180): check the read set of the path, then take its commit. -/
def State.completeWith (s : State) (reads : List Nat) (commit : State) : State :=
  if s.allWritten reads then commit else s.completeUnwritten

end Sys2Proof.Machine
end

