-- ==== Sys2Proof/Machine/Flags.lean ====
section
/-! DEFINITION. Every bit-field and flag the block extracts, the codes of PHASE, ERR and CLASS, and the protocol-name ROM
lookup. -/

namespace Sys2Proof.Machine

/-! ### Codes of the register values -/

/-- The number PHASE holds (R23). -/
def phaseCode : Phase → BitVec 2
  | .idle => 0
  | .busy => 1
  | .done => 2

/-- The number ERR holds (R28). -/
def errCode : ErrCode → BitVec 2
  | .ok => 0
  | .truncated => 1
  | .unsupportedVersion => 2
  | .malformedHeader => 3

/-- The number CLASS holds (R29). -/
def classCode : TransportClass → BitVec 2
  | .other => 0
  | .icmp => 1
  | .tcp => 2
  | .udp => 3

/-! ### The type-of-service byte (R73) -/

/-- `dscp = B[1][7:2]`. -/
def dscpOf (tos : Byte) : BitVec 6 := tos.extractLsb' 2 6

/-- `ecn = B[1][1:0]`. -/
def ecnOf (tos : Byte) : BitVec 2 := tos.extractLsb' 0 2

/-! ### The flags and fragment offset word (R74) -/

/-- `flag_rsv = fw[15]`. -/
def flagRsvOf (fw : BitVec 16) : BitVec 1 := fw.extractLsb' 15 1

/-- `flag_df = fw[14]`. -/
def flagDfOf (fw : BitVec 16) : BitVec 1 := fw.extractLsb' 14 1

/-- `flag_mf = fw[13]`. -/
def flagMfOf (fw : BitVec 16) : BitVec 1 := fw.extractLsb' 13 1

/-- `frag_off = fw[12:0]`. -/
def fragOffOf (fw : BitVec 16) : BitVec 13 := fw.extractLsb' 0 13

/-! ### The TCP control word (R78, R134) -/

/-- `tcp_doff = cw[15:12]`. -/
def tcpDoffOf (cw : BitVec 16) : BitVec 4 := cw.extractLsb' 12 4

/-- `tcp_flags = cw[5:0]`. -/
def tcpFlagsOf (cw : BitVec 16) : BitVec 6 := cw.extractLsb' 0 6

/-- The names of the six TCP flags, from bit 0 upward (R37, R78). -/
def tcpFlagNames : List String := ["FIN", "SYN", "RST", "PSH", "ACK", "URG"]

/-! ### The protocol-name ROM (R160 to R162) -/

/-- A name the ROM may hold: not empty and not "Unknown" (R160); anything else is UNASSIGNED. -/
def romNameOrUnassigned : Option String → Option String
  | none => none
  | some name => if name = "" ∨ name = "Unknown" then none else some name

/-- `PROTO_NAME_ROM[p]`; `none` is UNASSIGNED (R160; log 4). -/
def protoNameRom (p : Byte) : Option String :=
  if p = 1#8 then some "ICMP"
  else if p = 6#8 then some "TCP"
  else if p = 17#8 then some "UDP"
  else if 148 ≤ p.toNat then none
  else romNameOrUnassigned (Config.romOpen p)

/-- `name_for(p)` (R161). -/
def nameFor (p : Byte) : String := (protoNameRom p).getD "Unknown"

/-- What PROTO_KNOWN holds after a successful decode (R162). -/
def protoKnownOf (p : Byte) : BitVec 1 := if (protoNameRom p).isSome then 1 else 0

end Sys2Proof.Machine
end

