-- ==== Sys2Proof/Machine/Operands.lean ====
section
/-! DEFINITION. Every operand form: the register file with its numbers, widths and rights, and the header fields a decode
reads from the buffer. -/

namespace Sys2Proof.Machine

/-! ### The register file (R20, R21) -/

/-- The registers by name. -/
inductive Reg where
  | cmd | len | tsIn | phase | err | cls | version | ihl | hdrBytes | dscp | ecn | totalLen | ident
  | flagRsv | flagDf | flagMf | fragOff | ttl | proto | hdrCksum | srcAddr | dstAddr | srcPort | dstPort
  | tcpSeq | tcpAck | tcpDoff | tcpFlags | tcpWin | udpLen | icmpType | icmpCode | tsOut | protoKnown
  deriving DecidableEq, Repr

/-- The registers in number order. -/
def regTable : List Reg := [
  .cmd, .len, .tsIn, .phase, .err, .cls, .version, .ihl, .hdrBytes, .dscp, .ecn, .totalLen, .ident,
  .flagRsv, .flagDf, .flagMf, .fragOff, .ttl, .proto, .hdrCksum, .srcAddr, .dstAddr, .srcPort, .dstPort,
  .tcpSeq, .tcpAck, .tcpDoff, .tcpFlags, .tcpWin, .udpLen, .icmpType, .icmpCode, .tsOut, .protoKnown]

/-- The register of a number; numbers 34 and above have none (R20). -/
def regOf (n : Nat) : Option Reg := regTable[n]?

/-- The width of a register (R21). -/
def regWidth : Reg → Nat
  | .cmd => 32 | .len => 32 | .tsIn => 32 | .phase => 2 | .err => 2 | .cls => 2
  | .version => 4 | .ihl => 4 | .hdrBytes => 6 | .dscp => 6 | .ecn => 2
  | .totalLen => 16 | .ident => 16 | .flagRsv => 1 | .flagDf => 1 | .flagMf => 1 | .fragOff => 13
  | .ttl => 8 | .proto => 8 | .hdrCksum => 16 | .srcAddr => 32 | .dstAddr => 32
  | .srcPort => 16 | .dstPort => 16 | .tcpSeq => 32 | .tcpAck => 32 | .tcpDoff => 4 | .tcpFlags => 6
  | .tcpWin => 16 | .udpLen => 16 | .icmpType => 8 | .icmpCode => 8 | .tsOut => 32 | .protoKnown => 1

/-- A result register: number 4 to 33 (R42). -/
def isResultReg : Reg → Bool
  | .cmd => false
  | .len => false
  | .tsIn => false
  | .phase => false
  | _ => true

/-- The value of a result register, zero-extended to the 32-bit interface (R20); 0 for the four that are none. -/
def resultReg (r : Results) : Reg → Word
  | .cmd => 0
  | .len => 0
  | .tsIn => 0
  | .phase => 0
  | .err => (errCode r.err).setWidth 32
  | .cls => (classCode r.cls).setWidth 32
  | .version => r.version.setWidth 32
  | .ihl => r.ihl.setWidth 32
  | .hdrBytes => r.hdrBytes.setWidth 32
  | .dscp => r.dscp.setWidth 32
  | .ecn => r.ecn.setWidth 32
  | .totalLen => r.totalLen.setWidth 32
  | .ident => r.ident.setWidth 32
  | .flagRsv => r.flagRsv.setWidth 32
  | .flagDf => r.flagDf.setWidth 32
  | .flagMf => r.flagMf.setWidth 32
  | .fragOff => r.fragOff.setWidth 32
  | .ttl => r.ttl.setWidth 32
  | .proto => r.proto.setWidth 32
  | .hdrCksum => r.hdrCksum.setWidth 32
  | .srcAddr => r.srcAddr
  | .dstAddr => r.dstAddr
  | .srcPort => r.srcPort.setWidth 32
  | .dstPort => r.dstPort.setWidth 32
  | .tcpSeq => r.tcpSeq
  | .tcpAck => r.tcpAck
  | .tcpDoff => r.tcpDoff.setWidth 32
  | .tcpFlags => r.tcpFlags.setWidth 32
  | .tcpWin => r.tcpWin.setWidth 32
  | .udpLen => r.udpLen.setWidth 32
  | .icmpType => r.icmpType.setWidth 32
  | .icmpCode => r.icmpCode.setWidth 32
  | .tsOut => r.tsOut
  | .protoKnown => r.protoKnown.setWidth 32

/-- `zext_32(r[n])`, with CMD reading 0 (R20, R25). -/
def State.readReg (s : State) : Reg → Word
  | .cmd => 0
  | .len => s.len
  | .tsIn => s.tsIn
  | .phase => (phaseCode s.phase).setWidth 32
  | r => resultReg s.results r

/-- WREG of a register number (R173 to R177). -/
def State.hostWriteReg (s : State) (n : Nat) (v : Word) : State :=
  match regOf n with
  | none => s.recordFault .badRegister
  | some .cmd => s.hostWriteCmd v
  | some .len => s.hostWriteLen v
  | some .tsIn => s.setTsIn v
  | some _ => s.recordFault .readOnly

/-- RREG of a register number (R178). -/
def State.hostReadReg (s : State) (n : Nat) : State :=
  match regOf n with
  | none => s.recordFault .badRegister
  | some r =>
    if isResultReg r = true ∧ s.phase = .busy then s.recordFault .readWhileBusy else s.returnRead (s.readReg r)

/-! ### The IPv4 header (R71, R108 to R115) -/

/-- The tuple `ip` of R118; its version is always 4. -/
structure IpHeader where
  ihl : BitVec 4
  hdrBytes : Nat
  dscp : BitVec 6
  ecn : BitVec 2
  totalLen : BitVec 16
  ident : BitVec 16
  flagRsv : BitVec 1
  flagDf : BitVec 1
  flagMf : BitVec 1
  fragOff : BitVec 13
  ttl : BitVec 8
  proto : BitVec 8
  cksum : BitVec 16
  src : BitVec 32
  dst : BitVec 32
  deriving DecidableEq, Repr

/-- Field extraction (R108 to R115) from a buffer `B` whose header has `ihl` words. -/
def ipHeaderOf (B : Nat → Byte) (ihl : BitVec 4) : IpHeader where
  ihl := ihl
  hdrBytes := hdrBytesOf ihl
  dscp := dscpOf (B 1)
  ecn := ecnOf (B 1)
  totalLen := memRead16 B 2
  ident := memRead16 B 4
  flagRsv := flagRsvOf (memRead16 B 6)
  flagDf := flagDfOf (memRead16 B 6)
  flagMf := flagMfOf (memRead16 B 6)
  fragOff := fragOffOf (memRead16 B 6)
  ttl := B 8
  proto := B 9
  cksum := memRead16 B 10
  src := memRead32 B 12
  dst := memRead32 B 16

/-! ### The transport headers (R77 to R81) -/

/-- The tuple `tr` of R133 to R137. -/
inductive Transport where
  | tcp (srcPort dstPort : BitVec 16) (seq ack : BitVec 32) (doff : BitVec 4) (flags : BitVec 6) (win : BitVec 16)
  | udp (srcPort dstPort len : BitVec 16)
  | icmp (type code : BitVec 8)
  | other
  deriving DecidableEq, Repr

/-- The TCP fields at `t` (R133, R134). -/
def tcpHeaderOf (B : Nat → Byte) (t : Nat) : Transport :=
  .tcp (memRead16 B t) (memRead16 B (t + 2)) (memRead32 B (t + 4)) (memRead32 B (t + 8))
    (tcpDoffOf (memRead16 B (t + 12))) (tcpFlagsOf (memRead16 B (t + 12))) (memRead16 B (t + 14))

/-- The UDP fields at `t` (R135). -/
def udpHeaderOf (B : Nat → Byte) (t : Nat) : Transport :=
  .udp (memRead16 B t) (memRead16 B (t + 2)) (memRead16 B (t + 4))

/-- The ICMP fields at `t` (R136). -/
def icmpHeaderOf (B : Nat → Byte) (t : Nat) : Transport := .icmp (B t) (B (t + 1))

/-- `remaining = L - hdr_bytes` (R130). -/
def State.remaining (s : State) (ihl : BitVec 4) : Nat := s.lenL.toNat - hdrBytesOf ihl

/-- The fixed IPv4 header's bytes, 0 to 19 (R57). -/
def headerReads : List Nat := List.range 20

/-- `n` bytes from the transport base `t` (R145). -/
def transportReads (t n : Nat) : List Nat := List.range' t n

/-! ### What commit_ok writes (R140) -/

/-- The result registers after a successful decode (R140). A field the path does not produce is 0 (D9). -/
def Results.ofPacket (ip : IpHeader) (tr : Transport) (ts : Word) : Results where
  err := .ok
  cls := classOf ip.proto
  version := 4
  ihl := ip.ihl
  hdrBytes := BitVec.ofNat 6 ip.hdrBytes
  dscp := ip.dscp
  ecn := ip.ecn
  totalLen := ip.totalLen
  ident := ip.ident
  flagRsv := ip.flagRsv
  flagDf := ip.flagDf
  flagMf := ip.flagMf
  fragOff := ip.fragOff
  ttl := ip.ttl
  proto := ip.proto
  hdrCksum := ip.cksum
  srcAddr := ip.src
  dstAddr := ip.dst
  srcPort := match tr with | .tcp sp _ _ _ _ _ _ => sp | .udp sp _ _ => sp | .icmp _ _ => 0 | .other => 0
  dstPort := match tr with | .tcp _ dp _ _ _ _ _ => dp | .udp _ dp _ => dp | .icmp _ _ => 0 | .other => 0
  tcpSeq := match tr with | .tcp _ _ seq _ _ _ _ => seq | .udp _ _ _ => 0 | .icmp _ _ => 0 | .other => 0
  tcpAck := match tr with | .tcp _ _ _ ack _ _ _ => ack | .udp _ _ _ => 0 | .icmp _ _ => 0 | .other => 0
  tcpDoff := match tr with | .tcp _ _ _ _ doff _ _ => doff | .udp _ _ _ => 0 | .icmp _ _ => 0 | .other => 0
  tcpFlags := match tr with | .tcp _ _ _ _ _ fl _ => fl | .udp _ _ _ => 0 | .icmp _ _ => 0 | .other => 0
  tcpWin := match tr with | .tcp _ _ _ _ _ _ win => win | .udp _ _ _ => 0 | .icmp _ _ => 0 | .other => 0
  udpLen := match tr with | .tcp _ _ _ _ _ _ _ => 0 | .udp _ _ len => len | .icmp _ _ => 0 | .other => 0
  icmpType := match tr with | .tcp _ _ _ _ _ _ _ => 0 | .udp _ _ _ => 0 | .icmp ty _ => ty | .other => 0
  icmpCode := match tr with | .tcp _ _ _ _ _ _ _ => 0 | .udp _ _ _ => 0 | .icmp _ co => co | .other => 0
  tsOut := ts
  protoKnown := protoKnownOf ip.proto

/-- `commit_ok(ip, tr, ts)` with ts = TS_L (R138, R140). -/
def State.commitOk (s : State) (ip : IpHeader) (tr : Transport) : State :=
  (s.setResults (Results.ofPacket ip tr s.tsL)).setPhase .done

/-! ### Running a decode path -/

/-- The path the block's completion step takes in this state, `none` where a key byte it must read is unwritten
(R82, R142). -/
def State.pathTaken (s : State) : Option Instr := selectPath s.lenL.toNat (s.byte? 0) (s.byte? 9)

/-- A decode path executes exactly where COMPLETE is enabled and the state selects it (R82, R180; log 12). -/
def State.onPath (s : State) (i : Instr) (after : State) : Host.Outcome State Fault Refusal :=
  if s.phase = .busy ∧ s.pathTaken = some i then .next after else .fault .guardNotMet

end Sys2Proof.Machine
end

