-- ==== Sys2Proof/Machine/Commands.lean ====
section
/-! DEFINITION. The values written to CMD (43_host_interface.md, R175 to R177). -/

namespace Sys2Proof.Machine

/-- START (R175). -/
def execStart (s : State) : Host.Outcome State Fault Refusal := .next s.startDecode.retire

/-- CMD_NOP (R176): nothing, in every phase. -/
def execCmdNop (s : State) : Host.Outcome State Fault Refusal := .next s.retire

/-- CMD_RESERVED (R177): a value with a bit of 31:1 set is recorded and starts nothing. -/
def execCmdReserved (v : Word) (s : State) : Host.Outcome State Fault Refusal :=
  if cmdReservedBits v = 0#31 then .fault .guardNotMet else .next (s.hostWriteCmd v).retire

end Sys2Proof.Machine
end

