-- ==== Sys2Proof/Machine/HeaderPaths.lean ====
section
/-! DEFINITION. The decode paths that end in the IPv4 stage (40_ipv4_header.md). -/

namespace Sys2Proof.Machine

/-- IP_TRUNCATED (R101): reads no byte. -/
def execIpTruncated (s : State) : Host.Outcome State Fault Refusal :=
  s.onPath .ipTruncated (s.completeWith [] (s.commitErr .truncated))

/-- UNSUPPORTED_VERSION (R104): reads byte 0 only. -/
def execUnsupportedVersion (version : BitVec 4) (s : State) : Host.Outcome State Fault Refusal :=
  s.onPath (.unsupportedVersion version) (s.completeWith [0] (s.commitErr .unsupportedVersion))

/-- MALFORMED_IHL_0_3 (R107): reads byte 0 only. -/
def execMalformedIhl03 (ihl : BitVec 4) (s : State) : Host.Outcome State Fault Refusal :=
  s.onPath (.malformedIhl03 ihl) (s.completeWith [0] (s.commitErr .malformedHeader))

/-- MALFORMED_IHL_4 (R107): reads byte 0 only. -/
def execMalformedIhl4 (s : State) : Host.Outcome State Fault Refusal :=
  s.onPath .malformedIhl4 (s.completeWith [0] (s.commitErr .malformedHeader))

/-- MALFORMED_OVERLENGTH (R107): reads byte 0 only. -/
def execMalformedOverlength (ihl : BitVec 4) (s : State) : Host.Outcome State Fault Refusal :=
  s.onPath (.malformedOverlength ihl) (s.completeWith [0] (s.commitErr .malformedHeader))

end Sys2Proof.Machine
end

