-- ==== Sys2Proof/Machine/HostOps.lean ====
section
/-! DEFINITION. The host operation words (43_host_interface.md, R172 to R179). -/

namespace Sys2Proof.Machine

/-- WBUF (R172). -/
def execWbuf (a : BitVec 24) (d : Byte) (s : State) : Host.Outcome State Fault Refusal :=
  .next (s.hostWriteByte a.toNat d).retire

/-- WREG (R173 to R177). -/
def execWreg (r : BitVec 24) (v : Word) (s : State) : Host.Outcome State Fault Refusal :=
  .next (s.hostWriteReg r.toNat v).retire

/-- RREG (R178). -/
def execRreg (r : BitVec 24) (s : State) : Host.Outcome State Fault Refusal :=
  .next (s.hostReadReg r.toNat).retire

/-- WAIT (R179): while PHASE is not DONE the host holds, and its operation stays pending (log 8). -/
def execWait (s : State) : Host.Outcome State Fault Refusal :=
  if s.phase = .done then .next s.retire else .next s

end Sys2Proof.Machine
end

