-- ==== Sys2Proof/Machine/TransportPaths.lean ====
section
/-! DEFINITION. The decode paths of the protocol demultiplexer (41_dispatch.md). -/

namespace Sys2Proof.Machine

/-- DECODE_TCP (R133, R134): 16 transport bytes, or Truncated (90_conflicts.md C1). -/
def execDecodeTcp (ihl : BitVec 4) (s : State) : Host.Outcome State Fault Refusal :=
  s.onPath (.decodeTcp ihl) <|
    if s.remaining ihl < 16 then s.completeWith headerReads (s.commitErr .truncated)
    else
      s.completeWith (headerReads ++ transportReads (hdrBytesOf ihl) 16)
        (s.commitOk (ipHeaderOf s.byteAt ihl) (tcpHeaderOf s.byteAt (hdrBytesOf ihl)))

/-- DECODE_UDP (R135): 6 transport bytes, or Truncated (90_conflicts.md C1). -/
def execDecodeUdp (ihl : BitVec 4) (s : State) : Host.Outcome State Fault Refusal :=
  s.onPath (.decodeUdp ihl) <|
    if s.remaining ihl < 6 then s.completeWith headerReads (s.commitErr .truncated)
    else
      s.completeWith (headerReads ++ transportReads (hdrBytesOf ihl) 6)
        (s.commitOk (ipHeaderOf s.byteAt ihl) (udpHeaderOf s.byteAt (hdrBytesOf ihl)))

/-- DECODE_ICMP (R136): 2 transport bytes, or Truncated. -/
def execDecodeIcmp (ihl : BitVec 4) (s : State) : Host.Outcome State Fault Refusal :=
  s.onPath (.decodeIcmp ihl) <|
    if s.remaining ihl < 2 then s.completeWith headerReads (s.commitErr .truncated)
    else
      s.completeWith (headerReads ++ transportReads (hdrBytesOf ihl) 2)
        (s.commitOk (ipHeaderOf s.byteAt ihl) (icmpHeaderOf s.byteAt (hdrBytesOf ihl)))

/-- DECODE_OTHER (R137): no transport byte is read. -/
def execDecodeOther (ihl : BitVec 4) (proto : Byte) (s : State) : Host.Outcome State Fault Refusal :=
  s.onPath (.decodeOther ihl proto) <|
    s.completeWith headerReads (s.commitOk (ipHeaderOf s.byteAt ihl) .other)

end Sys2Proof.Machine
end

