-- ==== Sys2Proof/Machine/Dispatch.lean ====
section
/-! DEFINITION. The meaning of every instruction, one arm each. -/

namespace Sys2Proof.Machine

def exec (i : Instr) (s : State) : Host.Outcome State Fault Refusal :=
  match i with
  | .ipTruncated => Sys2Proof.Machine.execIpTruncated s
  | .unsupportedVersion version => Sys2Proof.Machine.execUnsupportedVersion version s
  | .malformedIhl03 ihl => Sys2Proof.Machine.execMalformedIhl03 ihl s
  | .malformedIhl4 => Sys2Proof.Machine.execMalformedIhl4 s
  | .malformedOverlength ihl => Sys2Proof.Machine.execMalformedOverlength ihl s
  | .decodeTcp ihl => Sys2Proof.Machine.execDecodeTcp ihl s
  | .decodeUdp ihl => Sys2Proof.Machine.execDecodeUdp ihl s
  | .decodeIcmp ihl => Sys2Proof.Machine.execDecodeIcmp ihl s
  | .decodeOther ihl proto => Sys2Proof.Machine.execDecodeOther ihl proto s
  | .start => Sys2Proof.Machine.execStart s
  | .cmdNop => Sys2Proof.Machine.execCmdNop s
  | .cmdReserved v => Sys2Proof.Machine.execCmdReserved v s
  | .wbuf a d => Sys2Proof.Machine.execWbuf a d s
  | .wreg r v => Sys2Proof.Machine.execWreg r v s
  | .rreg r => Sys2Proof.Machine.execRreg r s
  | .wait => Sys2Proof.Machine.execWait s

end Sys2Proof.Machine
end

