-- ==== Sys2Proof/Machine/Format.lean ====
section
/-! DEFINITION. The reference formatter (43_host_interface.md section 4): host software, a pure function of the result
registers, the verbose flag and the ROM (R194). -/

namespace Sys2Proof.Machine

/-! ### Numbers as text (D26) -/

/-- A decimal digit as a character. -/
def digitChar (d : Nat) : Char := Char.ofNat (48 + d)

/-- The decimal digits of `n` before `acc`, at most `fuel` of them. -/
def decimalDigits : Nat → Nat → List Char → List Char
  | 0, _, acc => acc
  | fuel + 1, n, acc =>
    if n < 10 then digitChar n :: acc else decimalDigits fuel (n / 10) (digitChar (n % 10) :: acc)

/-- Unsigned decimal without leading zeros (R183); ten digits hold every 32-bit value. -/
def decimal (n : Nat) : String := String.ofList (decimalDigits 10 n [])

/-- Decimal zero-padded to at least `width` digits (R184). -/
def decimalPadded (width n : Nat) : String :=
  let digits := decimalDigits 10 n []
  String.ofList (List.replicate (width - digits.length) '0' ++ digits)

/-! ### Tokens (R184 to R192) -/

/-- `HH:MM:SS.mmm` (R184; log 20). -/
def timeToken (ts : Word) : String :=
  decimalPadded 2 (ts.toNat / 3600000) ++ ":" ++ decimalPadded 2 (ts.toNat / 60000 % 60) ++ ":" ++
    decimalPadded 2 (ts.toNat / 1000 % 60) ++ "." ++ decimalPadded 3 (ts.toNat % 1000)

/-- Dotted decimal, bits 31:24 first (R34, R186; 90_conflicts.md C2). -/
def dotted (addr : BitVec 32) : String :=
  decimal (addr.extractLsb' 24 8).toNat ++ "." ++ decimal (addr.extractLsb' 16 8).toNat ++ "." ++
    decimal (addr.extractLsb' 8 8).toNat ++ "." ++ decimal (addr.extractLsb' 0 8).toNat

/-- Ports are shown for TCP and UDP only (R186). -/
def showsPorts : TransportClass → Bool
  | .tcp => true
  | .udp => true
  | .icmp => false
  | .other => false

/-- An address token, with its port where the class has ports (R186). -/
def addressToken (cls : TransportClass) (addr : BitVec 32) (port : BitVec 16) : String :=
  if showsPorts cls then dotted addr ++ ":" ++ decimal port.toNat else dotted addr

/-- The names of the set flags, in the order FIN to URG (R187). -/
def tcpFlagTokens (flags : BitVec 6) : List String :=
  (tcpFlagNames.zipIdx.filter fun entry => flags.getLsbD entry.2).map fun entry => entry.1

/-- The ICMP description table as the source has it (R190, D28; log 22). -/
def icmpDescription (type : BitVec 8) : Option String :=
  if type = 0#8 then some "echo reply"
  else if type = 8#8 then some "echo request"
  else if type = 3#8 then some "destination unreachable"
  else if type = 5#8 then some "redirect"
  else if type = 1#8 then some "time exceeded"
  else none

/-- The tokens the transport class adds (R187 to R190). -/
def transportTokens (r : Results) (verbose : Bool) : List String :=
  match r.cls with
  | .tcp =>
    tcpFlagTokens r.tcpFlags ++
      (if verbose then
        ["seq", decimal r.tcpSeq.toNat, "ack", decimal r.tcpAck.toNat, "win", decimal r.tcpWin.toNat]
      else [])
  | .udp => []
  | .icmp =>
    ["type", decimal r.icmpType.toNat, "code", decimal r.icmpCode.toNat] ++
      (match icmpDescription r.icmpType with
      | some desc => ["[" ++ desc ++ "]"]
      | none => [])
  | .other => []

/-- The verbose IP tokens, for every class (R191). -/
def verboseIpTokens (r : Results) (verbose : Bool) : List String :=
  if verbose then ["dscp", decimal r.dscp.toNat, "ecn", decimal r.ecn.toNat, "ttl", decimal r.ttl.toNat] else []

/-- The trailing DF token (R192). -/
def dfTokens (r : Results) : List String := if r.flagDf = 1#1 then ["DF"] else []

/-- `format(regs, verbose)` as a token list (R183); not defined when ERR is not 0. -/
def formatTokens (r : Results) (verbose : Bool) : Option (List String) :=
  if r.err = .ok then
    some ([timeToken r.tsOut, nameFor r.proto, addressToken r.cls r.srcAddr r.srcPort, "->",
      addressToken r.cls r.dstAddr r.dstPort] ++ transportTokens r verbose ++ verboseIpTokens r verbose ++ dfTokens r)
  else none

/-- A list of tokens joined by single spaces. -/
def joinTokens : List String → String
  | [] => ""
  | [token] => token
  | token :: rest => token ++ " " ++ joinTokens rest

/-- Line assembly: the tokens joined by single spaces, then one newline (R193, D25; log 21). -/
def lineOf (tokens : List String) : String := joinTokens tokens ++ "\n"

/-! ### The capture loop's output step (R182 steps 4 and 5) -/

/-- Read the results and write one line if they are a decoded packet, nothing otherwise. Reading results while BUSY
is the host fault of R178; before any decode has completed there is no result to write (log 20). DESIGN CHOICE: the
spec does not say by what operations the loop reads ERR and the results (R182), so whether their values are among
R181's RREG values is open; the model takes them as no RREG operations and adds nothing to `hostReads` (log 20). -/
def State.emitLine (s : State) (verbose : Bool) : State :=
  match s.phase with
  | .busy => s.recordFault .readWhileBusy
  | .idle => s
  | .done =>
    match formatTokens s.results verbose with
    | some tokens => s.writeLine tokens
    | none => s

end Sys2Proof.Machine
end

