-- ==== Sys2Proof/Machine/HostPrograms.lean ====
section
/-! DEFINITION. Host programs as event lists: the pseudo-instructions of R87 and the capture loop of R182. -/

namespace Sys2Proof.Machine

/-- The host event that performs an instruction given as a word of its encoding; a dispatch key is no host event. -/
def hostEventOf : Code → Option HostEvent
  | .key _ => none
  | .cmd v => some (.cmd v)
  | .host w => some (.word w)

/-- `WBUF a, d` (R87): the host word where it can name the address (R86). DESIGN CHOICE: where it cannot, at 2^24 and above,
for which the spec defines no encoding, the host performs the same write by an event of the model's own, so that no address
wraps (log 23). -/
def wbufEvent (a : Nat) (d : Byte) : HostEvent :=
  if a < 2 ^ 24 then .word (encodeHost 0x01#8 (BitVec.ofNat 24 a) (0#24 ++ d)) else .byteWrite a d

/-- `WBUF` of each byte of a list from address `a` upward: the pseudo-instruction LOAD (R87). A LOAD that runs past address
2^24 - 1 goes on with the events of `wbufEvent`: DESIGN CHOICE (log 23). -/
def loadProgram : Nat → List Byte → List HostEvent
  | _, [] => []
  | a, d :: rest => wbufEvent a d :: loadProgram (a + 1) rest

/-- `WREG r, v`. -/
def wregEvent (r : BitVec 24) (v : Word) : HostEvent := .word (encodeHost 0x02#8 r v)

/-- `WAIT`. -/
def waitEvent : HostEvent := .word (encodeHost 0x04#8 0#24 0#32)

/-- The pseudo-instruction DECODE (R87): set LEN and TS_IN, START, WAIT. -/
def decodeProgram (len ts : Word) : List HostEvent := [wregEvent 1 len, wregEvent 2 ts, wregEvent 0 1, waitEvent]

/-- The value the capture loop writes to LEN: the packet's length. DESIGN CHOICE: a length that LEN's 32 bits do not hold is
written as the greatest value they hold, and never wraps (log 27). -/
def lengthWord (packet : List Byte) : Word := BitVec.ofNat 32 (min packet.length (2 ^ 32 - 1))

/-- One iteration of the capture loop: the packet's bytes, its length and capture time, START, WAIT, and the output step
(R182 steps 2 to 5, R233). -/
def capturePacket (verbose : Bool) (packet : List Byte) (ts : Word) : List HostEvent :=
  loadProgram 0 packet ++ decodeProgram (lengthWord packet) ts ++ [.emit verbose]

/-- The capture loop over the packets a capture source delivers before it signals shutdown, in arrival order (R182). The
n-th packet's capture time is a draw (R6, D11; log 5). -/
def captureProgram (verbose : Bool) : Nat → List (List Byte) → List HostEvent
  | _, [] => []
  | n, packet :: rest =>
    capturePacket verbose packet (BitVec.ofNat 32 (Config.tsSource n).val) ++ captureProgram verbose (n + 1) rest

end Sys2Proof.Machine
end

