-- ==== Sys2Proof/Machine/Agents.lean ====
section
/-! DEFINITION. The two agents of R63: what the host does next, what the block does next, which of them moves, and where an
instruction must stand for the next step to run it. -/

namespace Sys2Proof.Machine

/-- The host performs its next event (R170); with none left the machine stays as it is (R232; log 9). -/
def hostStep (s : State) : Host.Outcome State Fault Refusal :=
  match s.hostQueue with
  | [] => .next s
  | .word w :: _ =>
    match decodeHostWord w with
    | .ok i => exec i s
    | .error why => .refused (.badHostWord why)
  | .cmd v :: _ => exec (decodeCmd v) s
  | .byteWrite a d :: _ => .next (s.hostWriteByte a d).retire
  | .reset :: _ => .next s.assertReset.retire
  | .emit verbose :: _ => .next (s.emitLine verbose).retire

/-- The block's COMPLETE step (R180): the path the packet selects, or UnwrittenByte where a key byte is unwritten
(log 15). -/
def blockStep (s : State) : Host.Outcome State Fault Refusal :=
  match s.pathTaken with
  | some i => exec i s
  | none => .next s.completeUnwritten

/-- While BUSY the host has no step when its program is at an end or at a WAIT (R179). -/
def State.hostHolds (s : State) : Bool :=
  match s.hostQueue with
  | [] => true
  | .word w :: _ => decide (decodeHostWord w = .ok .wait)
  | .cmd _ :: _ => false
  | .byteWrite _ _ :: _ => false
  | .reset :: _ => false
  | .emit _ :: _ => false

/-- Who moves: COMPLETE is enabled exactly while PHASE = BUSY (R180); where the host can move too, the turn decides
(R63; log 2). A host that holds leaves the move to the block, so COMPLETE happens at the latest then (weak
fairness, R180; log 19). -/
def State.mover (s : State) : Agent :=
  match s.phase with
  | .idle => .host
  | .done => .host
  | .busy => if s.hostHolds then .block else s.turn

/-- The agent whose move it is takes its step. -/
def moveAgents (s : State) : Host.Outcome State Fault Refusal :=
  match s.mover with
  | .host => hostStep s
  | .block => blockStep s

/-- After a step, the next turn is drawn. -/
def afterMove (o : Host.Outcome State Fault Refusal) : Host.Outcome State Fault Refusal :=
  match o with
  | .next s => .next s.drawTurn
  | .fault r => .fault r
  | .refused r => .refused r

/-- The packet of a dispatch key alone: its two bytes, every other byte 0 (log 14). -/
def keyPacket (k : Key) : Memory :=
  (List.range tableLen).map fun a =>
    (a, if a = 0 then k.extractLsb' 8 8 else if a = 9 then k.extractLsb' 0 8 else 0#8)

/-- Put an instruction's word where the next step finds it (log 14): a host word or a CMD value first in the host's
queue, with the turn the host's; a dispatch key in a packet under decode, with the turn the block's. -/
def State.placeCode (s : State) : Code → State
  | .key k =>
    { s with phase := .busy, lenL := BitVec.ofNat 32 tableLen, buffer := keyPacket k, turn := .block }
  | .cmd v => { s with hostQueue := .cmd v :: s.hostQueue, turn := .host }
  | .host w => { s with hostQueue := .word w :: s.hostQueue, turn := .host }

end Sys2Proof.Machine
end

