-- ==== Sys2Proof/Machine/Step.lean ====
section
/-! DEFINITION. One step of the machine, and the state in which the next step runs a given word. -/

namespace Sys2Proof.Machine

/-- One step: the agent whose move it is moves, and the next turn is drawn. -/
def step (s : State) : Host.Outcome State Fault Refusal := afterMove (moveAgents s)

/-- `s` with the instruction of a row's bits placed where the next step finds it; `s` itself for a width no row has. -/
def State.withFetchWord (s : State) (nbits w : Nat) : State :=
  match tableCode nbits w with
  | none => s
  | some c => s.placeCode c

end Sys2Proof.Machine
end

