-- ==== Sys2Proof/Laws/PerInstr.lean ====
section
/-! SUPPORT. The family EncodesRow: every well-formed instruction's word lies in its own row of the opcode table, by the
row's mask and match. -/

namespace Sys2Proof.Laws.EncodesRow

/-- A dispatch key lies in a row (R82). -/
def keyIn (mask pattern : Key) : Code → Bool
  | .key k => decide (k &&& mask = pattern)
  | .cmd _ => false
  | .host _ => false

/-- A CMD value lies in a row (R85). -/
def cmdIn (mask pattern : Word) : Code → Bool
  | .key _ => false
  | .cmd v => decide (v &&& mask = pattern)
  | .host _ => false

/-- A host operation word lies in a row (R86). -/
def hostIn (mask pattern : HostWord) : Code → Bool
  | .key _ => false
  | .cmd _ => false
  | .host w => decide (w &&& mask = pattern)

/-- The mask and match of an instruction's row in spec/opcode_table.json, applied to its word. -/
def inRow : Instr → Code → Bool
  | .ipTruncated => keyIn 0x0000#16 0x0000#16
  | .unsupportedVersion _ => keyIn 0x0000#16 0x0000#16
  | .malformedIhl03 _ => keyIn 0xFC00#16 0x4000#16
  | .malformedIhl4 => keyIn 0xFF00#16 0x4400#16
  | .malformedOverlength _ => keyIn 0xF000#16 0x4000#16
  | .decodeTcp _ => keyIn 0xF0FF#16 0x4006#16
  | .decodeUdp _ => keyIn 0xF0FF#16 0x4011#16
  | .decodeIcmp _ => keyIn 0xF0FF#16 0x4001#16
  | .decodeOther _ _ => keyIn 0xF000#16 0x4000#16
  | .start => cmdIn 0xFFFFFFFF#32 0x00000001#32
  | .cmdNop => cmdIn 0xFFFFFFFF#32 0x00000000#32
  | .cmdReserved _ => cmdIn 0x00000000#32 0x00000000#32
  | .wbuf _ _ => hostIn 0xFF000000FFFFFF00#64 0x0100000000000000#64
  | .wreg _ _ => hostIn 0xFF00000000000000#64 0x0200000000000000#64
  | .rreg _ => hostIn 0xFF000000FFFFFFFF#64 0x0300000000000000#64
  | .wait => hostIn 0xFFFFFFFFFFFFFFFF#64 0x0400000000000000#64

/-- A well-formed instruction's word lies in its row. -/
def Statement (i : Instr) : Prop := i.wellFormed = true → inRow i (encode i) = true

theorem ipTruncated : Statement .ipTruncated := fun _ => by decide

theorem unsupportedVersion (version : BitVec 4) : Statement (.unsupportedVersion version) := fun _ => by
  simp [inRow, keyIn, encode]

theorem malformedIhl03 (ihl : BitVec 4) : Statement (.malformedIhl03 ihl) := by
  unfold Statement
  revert ihl
  decide

theorem malformedIhl4 : Statement .malformedIhl4 := fun _ => by decide

theorem malformedOverlength (ihl : BitVec 4) : Statement (.malformedOverlength ihl) := by
  unfold Statement
  revert ihl
  decide

theorem decodeTcp (ihl : BitVec 4) : Statement (.decodeTcp ihl) := by
  unfold Statement
  revert ihl
  decide

theorem decodeUdp (ihl : BitVec 4) : Statement (.decodeUdp ihl) := by
  unfold Statement
  revert ihl
  decide

theorem decodeIcmp (ihl : BitVec 4) : Statement (.decodeIcmp ihl) := by
  unfold Statement
  revert ihl
  decide

theorem decodeOther (ihl : BitVec 4) (proto : Byte) : Statement (.decodeOther ihl proto) := fun _ => by
  simp only [inRow, keyIn, encode, encodeKey, decide_eq_true_eq]
  ext j hj
  simp only [BitVec.getElem_and, BitVec.getElem_append]
  interval_cases j <;> simp

theorem start : Statement .start := fun _ => by decide

theorem cmdNop : Statement .cmdNop := fun _ => by decide

theorem cmdReserved (v : Word) : Statement (.cmdReserved v) := fun _ => by
  simp [inRow, cmdIn, encode]

theorem wbuf (a : BitVec 24) (d : Byte) : Statement (.wbuf a d) := fun _ => by
  simp only [inRow, hostIn, encode, encodeHost, decide_eq_true_eq]
  ext j hj
  simp only [BitVec.getElem_and, BitVec.getElem_append]
  interval_cases j <;> simp

theorem wreg (r : BitVec 24) (v : Word) : Statement (.wreg r v) := fun _ => by
  simp only [inRow, hostIn, encode, encodeHost, decide_eq_true_eq]
  ext j hj
  simp only [BitVec.getElem_and, BitVec.getElem_append]
  interval_cases j <;> simp

theorem rreg (r : BitVec 24) : Statement (.rreg r) := fun _ => by
  simp only [inRow, hostIn, encode, encodeHost, decide_eq_true_eq]
  ext j hj
  simp only [BitVec.getElem_and, BitVec.getElem_append]
  interval_cases j <;> simp

theorem wait : Statement .wait := fun _ => by decide

end Sys2Proof.Laws.EncodesRow
end

