-- ==== Sys2Proof/Machine/WholeDecode.lean ====
section
/-! DEFINITION. The whole decode as the spec's one function `decode(B, L, T)` (R142) and its read set (R145), written in
the step order of the rules and not by the opcode table's rows; claims hold the block's step against it. -/

namespace Sys2Proof.Machine

/-- The result registers `decode(B, L, T)` commits (R142). -/
def wholeDecode (B : Nat → Byte) (L : Nat) (T : Word) : Results :=
  if L < 20 then Results.ofError .truncated
  else if versionOf (B 0) ≠ 4#4 then Results.ofError .unsupportedVersion
  else if hdrBytesOf (ihlOf (B 0)) < 20 ∨ L < hdrBytesOf (ihlOf (B 0)) then Results.ofError .malformedHeader
  else
    match classOf (B 9) with
    | .tcp =>
      if L - hdrBytesOf (ihlOf (B 0)) < 16 then Results.ofError .truncated
      else Results.ofPacket (ipHeaderOf B (ihlOf (B 0))) (tcpHeaderOf B (hdrBytesOf (ihlOf (B 0)))) T
    | .udp =>
      if L - hdrBytesOf (ihlOf (B 0)) < 6 then Results.ofError .truncated
      else Results.ofPacket (ipHeaderOf B (ihlOf (B 0))) (udpHeaderOf B (hdrBytesOf (ihlOf (B 0)))) T
    | .icmp =>
      if L - hdrBytesOf (ihlOf (B 0)) < 2 then Results.ofError .truncated
      else Results.ofPacket (ipHeaderOf B (ihlOf (B 0))) (icmpHeaderOf B (hdrBytesOf (ihlOf (B 0)))) T
    | .other => Results.ofPacket (ipHeaderOf B (ihlOf (B 0))) .other T

/-- How many transport bytes a class reads (R145). -/
def transportNeed : TransportClass → Nat
  | .tcp => 16
  | .udp => 6
  | .icmp => 2
  | .other => 0

/-- The bytes `decode(B, L, T)` reads (R145). -/
def readSet (B : Nat → Byte) (L : Nat) : List Nat :=
  if L < 20 then []
  else if versionOf (B 0) ≠ 4#4 then [0]
  else if hdrBytesOf (ihlOf (B 0)) < 20 ∨ L < hdrBytesOf (ihlOf (B 0)) then [0]
  else if L - hdrBytesOf (ihlOf (B 0)) < transportNeed (classOf (B 9)) then headerReads
  else headerReads ++ transportReads (hdrBytesOf (ihlOf (B 0))) (transportNeed (classOf (B 9)))

end Sys2Proof.Machine
end

