-- ==== Sys2Proof/Safety.lean ====
section
/-! DEFINITION. What counts as a safe run, and the invariant of every state a run reaches, in the terms claims use. -/

namespace Sys2Proof.Machine

/-- No host fault is recorded: the premise of a claim about a run (R48). -/
def State.noHostFault (s : State) : Prop := ∀ f : HostFault, s.hostFaults.has f = false

/-- A run ends when the host has performed its last operation and PHASE is not BUSY (R181). -/
def State.runEnded (s : State) : Prop := s.hostQueue = [] ∧ s.phase ≠ .busy

/-- A run ends successfully if, in addition, no host fault is recorded (R181). -/
def State.runSucceeded (s : State) : Prop := s.runEnded ∧ s.noHostFault

/-- The results of a decode that raised an error, or of none: ERR alone may differ from 0 (R141, R47). -/
def Results.onlyErr (r : Results) : Prop := r = Results.ofError r.err

/-- The results of a successful decode, as far as they are fixed without the packet (R30, R35 to R39, R41, R139). -/
structure Results.ofSuccess (r : Results) : Prop where
  err : r.err = .ok
  version : r.version = 4#4
  ihl : 5 ≤ r.ihl.toNat
  hdrBytes : r.hdrBytes.toNat = r.ihl.toNat * 4
  cls : r.cls = classOf r.proto
  protoKnown : r.protoKnown = protoKnownOf r.proto
  ports : r.cls ≠ .tcp → r.cls ≠ .udp → r.srcPort = 0 ∧ r.dstPort = 0
  tcp : r.cls ≠ .tcp → r.tcpSeq = 0 ∧ r.tcpAck = 0 ∧ r.tcpDoff = 0 ∧ r.tcpFlags = 0 ∧ r.tcpWin = 0
  udp : r.cls ≠ .udp → r.udpLen = 0
  icmp : r.cls ≠ .icmp → r.icmpType = 0 ∧ r.icmpCode = 0

/-- The invariant of the machine. -/
structure State.Inv (s : State) : Prop where
  /-- The buffer is in its canonical form. -/
  wf : s.buffer.wf = true
  /-- Only buffer addresses are written (R58, R172). -/
  below : s.buffer.below Config.bufLenMax = true
  /-- LEN is a legal length (R26, R173). -/
  len : s.len.toNat ≤ Config.bufLenMax
  /-- So is the latched one (R43). -/
  lenL : s.lenL.toNat ≤ Config.bufLenMax
  /-- The result registers are an error's or a success's, never a mix (R206). -/
  results : s.results.onlyErr ∨ s.results.ofSuccess
  /-- While IDLE they hold 0 (R42). -/
  idle : s.phase = .idle → s.results = Results.zero

end Sys2Proof.Machine
end

