-- ==== Sys2Proof/Certificates/Slice0/Obligations.lean ====
section
/-! DEFINITION. The statements for the provers: what each instruction does, what it leaves unchanged, and what holds of
the whole machine. Each docstring says which rule of the spec it formalises. -/

open Sys2Proof Sys2Proof.Machine

/-! ### Vocabulary of the statements -/

namespace Sys2Proof.Claims

/-- `s` after its host has performed the event it was at, with one more host fault recorded. That the host's events stand in
a queue of the state is the model's own form of R63's program order (log 1). -/
def faulted (s : State) (f : HostFault) : State :=
  { s with hostFaults := s.hostFaults.record f, hostQueue := s.hostQueue.tail }

/-- `s` with PHASE = DONE and these result registers. -/
def doneWith (s : State) (r : Results) : State := { s with phase := .done, results := r }

/-- `s` after a completion that met an unwritten byte (R180): the results are unchanged. -/
def doneUnwritten (s : State) : State :=
  { s with phase := .done, hostFaults := s.hostFaults.record .unwrittenByte }

/-- Only ERR differs from 0 (R141). -/
def errorResults (e : ErrCode) : Results := { Results.zero with err := e }

/-- The IPv4 fields of a packet in buffer `B` at the offsets and bits of R71 to R75, with transport fields 0. -/
def ipResults (B : Nat → Byte) (ts : Word) : Results :=
  { Results.zero with
    err := .ok
    cls := .other
    version := 4#4
    ihl := (B 0).extractLsb' 0 4
    hdrBytes := BitVec.ofNat 6 (((B 0).extractLsb' 0 4).toNat * 4)
    dscp := (B 1).extractLsb' 2 6
    ecn := (B 1).extractLsb' 0 2
    totalLen := B 2 ++ B 3
    ident := B 4 ++ B 5
    flagRsv := (B 6).extractLsb' 7 1
    flagDf := (B 6).extractLsb' 6 1
    flagMf := (B 6).extractLsb' 5 1
    fragOff := (B 6).extractLsb' 0 5 ++ B 7
    ttl := B 8
    proto := B 9
    hdrCksum := B 10 ++ B 11
    srcAddr := B 12 ++ B 13 ++ B 14 ++ B 15
    dstAddr := B 16 ++ B 17 ++ B 18 ++ B 19
    tsOut := ts }

/-- `s` is decoding a packet whose header checks pass: PHASE = BUSY, byte 0 holds version 4 and IHL `ihl` of 5 or more,
the header lies within LEN_L, and the fixed header, bytes 0 to 19, has been written as `B` says. -/
def headerAccepted (s : State) (B : Nat → Byte) (ihl : BitVec 4) : Prop :=
  s.phase = .busy ∧ 20 ≤ s.lenL.toNat ∧ B 0 = 4#4 ++ ihl ∧ 5 ≤ ihl.toNat ∧ ihl.toNat * 4 ≤ s.lenL.toNat ∧
    ∀ a, a < 20 → s.byte? a = some (B a)

/-- The `n` bytes from the transport base lie within LEN_L and have been written as `B` says. -/
def transportPresent (s : State) (B : Nat → Byte) (ihl : BitVec 4) (n : Nat) : Prop :=
  ihl.toNat * 4 + n ≤ s.lenL.toNat ∧ ∀ a, ihl.toNat * 4 ≤ a → a < ihl.toNat * 4 + n → s.byte? a = some (B a)

/-- The nine decode paths of the opcode table. -/
def isDecodePath : Instr → Bool
  | .ipTruncated => true
  | .unsupportedVersion _ => true
  | .malformedIhl03 _ => true
  | .malformedIhl4 => true
  | .malformedOverlength _ => true
  | .decodeTcp _ => true
  | .decodeUdp _ => true
  | .decodeIcmp _ => true
  | .decodeOther _ _ => true
  | .start => false
  | .cmdNop => false
  | .cmdReserved _ => false
  | .wbuf _ _ => false
  | .wreg _ _ => false
  | .rreg _ => false
  | .wait => false

/-- The host faults an instruction can record (R171). -/
def ownFaults : Instr → List HostFault
  | .ipTruncated => [.unwrittenByte]
  | .unsupportedVersion _ => [.unwrittenByte]
  | .malformedIhl03 _ => [.unwrittenByte]
  | .malformedIhl4 => [.unwrittenByte]
  | .malformedOverlength _ => [.unwrittenByte]
  | .decodeTcp _ => [.unwrittenByte]
  | .decodeUdp _ => [.unwrittenByte]
  | .decodeIcmp _ => [.unwrittenByte]
  | .decodeOther _ _ => [.unwrittenByte]
  | .start => [.startWhileBusy]
  | .cmdNop => []
  | .cmdReserved _ => [.reservedCmdBits]
  | .wbuf _ _ => [.bufOutOfRange, .bufWriteWhileBusy]
  | .wreg _ _ => [.badRegister, .readOnly, .reservedCmdBits, .lenTooLarge, .startWhileBusy]
  | .rreg _ => [.badRegister, .readWhileBusy]
  | .wait => []

/-- The host's next event is a write of `v` to register number `n`, as a host word or as a CMD value. -/
def nextWrites (s : State) (n : Nat) (v : Word) : Prop :=
  (∃ w rest r, s.hostQueue = .word w :: rest ∧ decodeHostWord w = .ok (.wreg r v) ∧ r.toNat = n) ∨
    (n = 0 ∧ ∃ rest, s.hostQueue = .cmd v :: rest)

/-- The host's next event is a read of register number `n`. -/
def nextReads (s : State) (n : Nat) : Prop :=
  ∃ w rest r, s.hostQueue = .word w :: rest ∧ decodeHostWord w = .ok (.rreg r) ∧ r.toNat = n

/-- The host's next event is a write of byte `d` at buffer address `a`, as a host word or as the model's own event for the
addresses a word cannot name (log 23). -/
def nextStores (s : State) (a : Nat) (d : Byte) : Prop :=
  (∃ w rest r, s.hostQueue = .word w :: rest ∧ decodeHostWord w = .ok (.wbuf r d) ∧ r.toNat = a) ∨
    ∃ rest, s.hostQueue = .byteWrite a d :: rest

/-- The host has no step while BUSY: its program is at an end, or its next event is the word WAIT (R179). -/
def hostWaits (s : State) : Prop :=
  s.hostQueue = [] ∨ ∃ w rest, s.hostQueue = .word w :: rest ∧ decodeHostWord w = .ok .wait

/-- The tokens the verbose flag adds to every line (R191). -/
def verboseTokens (r : Results) (verbose : Bool) : List String :=
  if verbose = true then ["dscp", decimal r.dscp.toNat, "ecn", decimal r.ecn.toNat, "ttl", decimal r.ttl.toNat] else []

/-- The token list of a line (R183): time, name, the two address tokens, the tokens of the class, the verbose IP tokens,
and DF if set. -/
def lineTokens (r : Results) (verbose : Bool) (src dst : String) (own : List String) : List String :=
  [timeToken r.tsOut, nameFor r.proto, src, "->", dst] ++ own ++ verboseTokens r verbose ++
    (if r.flagDf = 1#1 then ["DF"] else [])

/-- The host's next event is the reset input. -/
def nextResets (s : State) : Prop := ∃ rest, s.hostQueue = .reset :: rest

/-- The table of R171: when each host fault is recorded. The capture loop's output step reads result registers, so it can
record ReadWhileBusy as well (log 20). -/
def faultCause (s : State) : HostFault → Prop
  | .badRegister => s.mover = .host ∧ ∃ n, 34 ≤ n ∧ ((∃ v, nextWrites s n v) ∨ nextReads s n)
  | .readOnly => s.mover = .host ∧ ∃ n v, 3 ≤ n ∧ n ≤ 33 ∧ nextWrites s n v
  | .reservedCmdBits => s.mover = .host ∧ ∃ v, v.extractLsb' 1 31 ≠ 0#31 ∧ nextWrites s 0 v
  | .lenTooLarge => s.mover = .host ∧ ∃ v, Config.bufLenMax < v.toNat ∧ nextWrites s 1 v
  | .bufOutOfRange => s.mover = .host ∧ ∃ a d, Config.bufLenMax ≤ a ∧ nextStores s a d
  | .bufWriteWhileBusy => s.mover = .host ∧ s.phase = .busy ∧ ∃ a d, nextStores s a d
  | .startWhileBusy => s.mover = .host ∧ s.phase = .busy ∧ nextWrites s 0 1#32
  | .readWhileBusy =>
    s.mover = .host ∧ s.phase = .busy ∧
      ((∃ n, 4 ≤ n ∧ n ≤ 33 ∧ nextReads s n) ∨ ∃ verbose rest, s.hostQueue = .emit verbose :: rest)
  | .unwrittenByte => s.mover = .block ∧ ∃ a, a ∈ readSet s.byteAt s.lenL.toNat ∧ s.byte? a = none

end Sys2Proof.Claims

open Sys2Proof.Claims

/-! ### Encodings -/

/-- R83: decoding the encoded word of any well-formed instruction gives it back, in a packet of any length that the row's
guard on LEN_L admits; no operand bit is dropped. -/
def Obligations.DecodeOfEncodeIsTheInstruction : Prop :=
  ∀ (i : Instr) (len : Nat), i.wellFormed = true → i.lenGuard len = true → decodeCode len (encode i) = .ok i

/-- R82, R83: for every LEN_L and every key the opcode table's rows, tried in priority order, select exactly the path that
the decoder gives. -/
def Obligations.OpcodeTableSelectsTheDecodedPath : Prop :=
  ∀ (len : Nat) (key : Key), tablePath len key = some (decodeKey len key)

/-- R85, R86: a host word or CMD value that decodes is the encoding of what it decodes to, so each has one meaning. -/
def Obligations.HostEncodingsHaveOneMeaning : Prop :=
  (∀ (w : HostWord) (i : Instr), decodeHostWord w = .ok i → encode i = .host w) ∧
    ∀ v : Word, encode (decodeCmd v) = .cmd v

/-- R83, R84: whatever a decoder answers is a well-formed instruction whose guard on LEN_L holds; no reserved encoding
falls through to a row that does not admit it. -/
def Obligations.DecodedInstructionsAreWellFormed : Prop :=
  ∀ (len : Nat) (c : Code) (i : Instr), decodeCode len c = .ok i → i.wellFormed = true ∧ i.lenGuard len = true

/-- R86: the decoder of host words refuses exactly the words with another op, or with a field that must be 0 set. -/
def Obligations.HostWordRefusedExactly : Prop :=
  ∀ w : HostWord,
    (∃ why, decodeHostWord w = .error why) ↔
      (w.extractLsb' 56 8 ≠ 1#8 ∧ w.extractLsb' 56 8 ≠ 2#8 ∧ w.extractLsb' 56 8 ≠ 3#8 ∧ w.extractLsb' 56 8 ≠ 4#8) ∨
      (w.extractLsb' 56 8 = 1#8 ∧ w.extractLsb' 8 24 ≠ 0#24) ∨
      (w.extractLsb' 56 8 = 3#8 ∧ w.extractLsb' 0 32 ≠ 0#32) ∨
      (w.extractLsb' 56 8 = 4#8 ∧ w.extractLsb' 0 56 ≠ 0#56)

/-- R82, R85, R86: words written out from the spec's own listings decode to what the listings say. -/
def Obligations.ListedWordsDecode : Prop :=
  decodeHostWord 0x010000090000_00FA#64 = .ok (.wbuf 9 0xFA) ∧
  decodeHostWord 0x0200000202B32C95#64 = .ok (.wreg 2 45296789) ∧
  decodeHostWord 0x0300001B00000000#64 = .ok (.rreg 27) ∧
  decodeHostWord 0x0400000000000000#64 = .ok .wait ∧
  decodeCmd 1#32 = .start ∧ decodeCmd 0#32 = .cmdNop ∧ decodeCmd 3#32 = .cmdReserved 3 ∧
  decodeKey 40 0x4506#16 = .decodeTcp 5 ∧ decodeKey 32 0x4601#16 = .decodeIcmp 6 ∧
  decodeKey 20 0x45FA#16 = .decodeOther 5 250 ∧ decodeKey 40 0x60FA#16 = .unsupportedVersion 6 ∧
  decodeKey 19 0x4506#16 = .ipTruncated ∧ decodeKey 23 0x46FA#16 = .malformedOverlength 6

/-! ### The IPv4 stage -/

/-- R101, R141: with LEN_L below 20 the block commits Truncated, whatever the buffer holds. -/
def Obligations.ShortPacketCommitsTruncated : Prop :=
  ∀ s : State, s.phase = .busy → s.lenL.toNat < 20 →
    exec .ipTruncated s = .next (doneWith s (errorResults .truncated))

/-- R104, R141: with LEN_L at least 20 and a version nibble other than 4 the block commits UnsupportedVersion; only byte
0 need have been written. -/
def Obligations.OtherVersionCommitsUnsupportedVersion : Prop :=
  ∀ (s : State) (version low : BitVec 4), s.phase = .busy → 20 ≤ s.lenL.toNat → s.byte? 0 = some (version ++ low) →
    version ≠ 4#4 →
    exec (.unsupportedVersion version) s = .next (doneWith s (errorResults .unsupportedVersion))

/-- R107, R141: with version 4, an IHL of 0 to 4 or a header longer than LEN_L commits MalformedHeader, by the row of
the opcode table the IHL belongs to; only byte 0 need have been written. -/
def Obligations.BadHeaderLengthCommitsMalformedHeader : Prop :=
  ∀ (s : State) (ihl : BitVec 4), s.phase = .busy → 20 ≤ s.lenL.toNat → s.byte? 0 = some (4#4 ++ ihl) →
    (ihl.toNat < 4 → exec (.malformedIhl03 ihl) s = .next (doneWith s (errorResults .malformedHeader))) ∧
    (ihl.toNat = 4 → exec .malformedIhl4 s = .next (doneWith s (errorResults .malformedHeader))) ∧
    (s.lenL.toNat < ihl.toNat * 4 →
      exec (.malformedOverlength ihl) s = .next (doneWith s (errorResults .malformedHeader)))

/-! ### The transport paths -/

/-- R133, R134, R140: a TCP packet with at least 16 transport bytes commits every field. -/
def Obligations.TcpPacketCommitsEveryField : Prop :=
  ∀ (s : State) (B : Nat → Byte) (ihl : BitVec 4) (t : Nat), headerAccepted s B ihl → B 9 = 6#8 →
    t = ihl.toNat * 4 → transportPresent s B ihl 16 →
    exec (.decodeTcp ihl) s = .next (doneWith s
      { ipResults B s.tsL with
        cls := .tcp
        srcPort := B t ++ B (t + 1)
        dstPort := B (t + 2) ++ B (t + 3)
        tcpSeq := B (t + 4) ++ B (t + 5) ++ B (t + 6) ++ B (t + 7)
        tcpAck := B (t + 8) ++ B (t + 9) ++ B (t + 10) ++ B (t + 11)
        tcpDoff := (B (t + 12)).extractLsb' 4 4
        tcpFlags := (B (t + 13)).extractLsb' 0 6
        tcpWin := B (t + 14) ++ B (t + 15)
        protoKnown := 1#1 })

/-- R135, R140: a UDP packet with at least 6 transport bytes commits every field. -/
def Obligations.UdpPacketCommitsEveryField : Prop :=
  ∀ (s : State) (B : Nat → Byte) (ihl : BitVec 4) (t : Nat), headerAccepted s B ihl → B 9 = 17#8 →
    t = ihl.toNat * 4 → transportPresent s B ihl 6 →
    exec (.decodeUdp ihl) s = .next (doneWith s
      { ipResults B s.tsL with
        cls := .udp
        srcPort := B t ++ B (t + 1)
        dstPort := B (t + 2) ++ B (t + 3)
        udpLen := B (t + 4) ++ B (t + 5)
        protoKnown := 1#1 })

/-- R136, R140: an ICMP packet with at least 2 transport bytes commits every field. -/
def Obligations.IcmpPacketCommitsEveryField : Prop :=
  ∀ (s : State) (B : Nat → Byte) (ihl : BitVec 4) (t : Nat), headerAccepted s B ihl → B 9 = 1#8 →
    t = ihl.toNat * 4 → transportPresent s B ihl 2 →
    exec (.decodeIcmp ihl) s = .next (doneWith s
      { ipResults B s.tsL with
        cls := .icmp
        icmpType := B t
        icmpCode := B (t + 1)
        protoKnown := 1#1 })

/-- R137, R140: a packet of any other protocol commits its IPv4 fields, with no transport byte present or written. -/
def Obligations.OtherPacketCommitsIpFields : Prop :=
  ∀ (s : State) (B : Nat → Byte) (ihl : BitVec 4), headerAccepted s B ihl → B 9 ≠ 1#8 → B 9 ≠ 6#8 → B 9 ≠ 17#8 →
    exec (.decodeOther ihl (B 9)) s = .next (doneWith s
      { ipResults B s.tsL with protoKnown := if nameFor (B 9) = "Unknown" then 0#1 else 1#1 })

/-- R133, R135, R136, R201: too few transport bytes commit Truncated and no field of the packet; only bytes 0 to 19 need
have been written. The thresholds are those of 90_conflicts.md C1. -/
def Obligations.ShortTransportCommitsTruncated : Prop :=
  ∀ (s : State) (B : Nat → Byte) (ihl : BitVec 4), headerAccepted s B ihl →
    (B 9 = 6#8 → s.lenL.toNat < ihl.toNat * 4 + 16 →
      exec (.decodeTcp ihl) s = .next (doneWith s (errorResults .truncated))) ∧
    (B 9 = 17#8 → s.lenL.toNat < ihl.toNat * 4 + 6 →
      exec (.decodeUdp ihl) s = .next (doneWith s (errorResults .truncated))) ∧
    (B 9 = 1#8 → s.lenL.toNat < ihl.toNat * 4 + 2 →
      exec (.decodeIcmp ihl) s = .next (doneWith s (errorResults .truncated)))

/-! ### The whole decode -/

/-- R142, R180, R145: the block's step, which goes by the opcode table's rows, is the spec's one function decode(B, L, T)
committed at once, or UnwrittenByte where its read set holds an unwritten byte. -/
def Obligations.BlockStepIsTheWholeDecode : Prop :=
  ∀ s : State, s.phase = .busy →
    blockStep s = .next
      (if (readSet s.byteAt s.lenL.toNat).all (fun a => (s.byte? a).isSome) = true
        then doneWith s (wholeDecode s.byteAt s.lenL.toNat s.tsL)
        else doneUnwritten s)

/-- R56: every byte a decode reads lies below LEN_L. -/
def Obligations.DecodeReadsOnlyBelowLength : Prop :=
  ∀ (B : Nat → Byte) (L a : Nat), a ∈ readSet B L → a < L

/-- R144: a decode reads at most 36 bytes, none of them twice. -/
def Obligations.DecodeReadsAtMost36Bytes : Prop :=
  ∀ (B : Nat → Byte) (L : Nat), (readSet B L).length ≤ 36 ∧ (readSet B L).Nodup

/-- R143, R46: a decode's outcome depends only on LEN_L, TS_L and the bytes of its read set: two blocks that agree on
those commit the same values, whatever else their states hold. -/
def Obligations.DecodeDependsOnlyOnItsInputs : Prop :=
  ∀ s t : State, s.phase = .busy → t.phase = .busy → s.lenL = t.lenL → s.tsL = t.tsL →
    (∀ a ∈ readSet s.byteAt s.lenL.toNat, ∃ v, s.byte? a = some v ∧ t.byte? a = some v) →
    ∃ r : Results, blockStep s = .next (doneWith s r) ∧ blockStep t = .next (doneWith t r)

/-- R49, R180, R209: where a byte of the read set is unwritten, the completion records UnwrittenByte, moves PHASE to DONE
and changes nothing else; the results are those of before. -/
def Obligations.UnwrittenByteLeavesResults : Prop :=
  ∀ (s : State) (a : Nat), s.phase = .busy → a ∈ readSet s.byteAt s.lenL.toNat → s.byte? a = none →
    blockStep s = .next (doneUnwritten s)

/-- R139, R163, R164: after every decode that ends in success CLASS is the class of PROTO; the three dispatched protocols
are known by their names, and a protocol of 148 or more is Other and unknown. -/
def Obligations.ClassAgreesWithProtocol : Prop :=
  ∀ (B : Nat → Byte) (L : Nat) (T : Word) (r : Results), wholeDecode B L T = r → r.err = .ok →
    r.cls = classOf r.proto ∧
    (r.cls = .tcp → r.protoKnown = 1#1 ∧ nameFor r.proto = "TCP") ∧
    (r.cls = .udp → r.protoKnown = 1#1 ∧ nameFor r.proto = "UDP") ∧
    (r.cls = .icmp → r.protoKnown = 1#1 ∧ nameFor r.proto = "ICMP") ∧
    (148 ≤ r.proto.toNat → r.cls = .other ∧ r.protoKnown = 0#1 ∧ nameFor r.proto = "Unknown")

/-- R141, R239: a decode that ends in an error leaves 0 in every result register but ERR. -/
def Obligations.ErrorLeavesNoStaleData : Prop :=
  ∀ (B : Nat → Byte) (L : Nat) (T : Word) (reg : Reg), (wholeDecode B L T).err ≠ .ok → isResultReg reg = true →
    reg ≠ .err → resultReg (wholeDecode B L T) reg = 0#32

/-- R205: of several error conditions the first in the step order is reported. -/
def Obligations.ErrorPriority : Prop :=
  ∀ (B : Nat → Byte) (L : Nat) (T : Word),
    (L < 20 → (wholeDecode B L T).err = .truncated) ∧
    (20 ≤ L → (B 0).extractLsb' 4 4 ≠ 4#4 → (wholeDecode B L T).err = .unsupportedVersion) ∧
    (20 ≤ L → (B 0).extractLsb' 4 4 = 4#4 →
      (((B 0).extractLsb' 0 4).toNat < 5 ∨ L < ((B 0).extractLsb' 0 4).toNat * 4) →
      (wholeDecode B L T).err = .malformedHeader) ∧
    (20 ≤ L → (B 0).extractLsb' 4 4 = 4#4 → 5 ≤ ((B 0).extractLsb' 0 4).toNat →
      ((B 0).extractLsb' 0 4).toNat * 4 ≤ L →
      (wholeDecode B L T).err =
        if L - ((B 0).extractLsb' 0 4).toNat * 4 <
            (if B 9 = 6#8 then 16 else if B 9 = 17#8 then 6 else if B 9 = 1#8 then 2 else 0)
          then .truncated else .ok)

/-- R202, R203: UnsupportedVersion has exactly the one cause, and MalformedHeader exactly the two causes, of the rules. -/
def Obligations.VersionAndHeaderErrorsHaveExactlyTheirCauses : Prop :=
  ∀ (B : Nat → Byte) (L : Nat) (T : Word),
    ((wholeDecode B L T).err = .unsupportedVersion ↔ 20 ≤ L ∧ (B 0).extractLsb' 4 4 ≠ 4#4) ∧
    ((wholeDecode B L T).err = .malformedHeader ↔
      20 ≤ L ∧ (B 0).extractLsb' 4 4 = 4#4 ∧
        (((B 0).extractLsb' 0 4).toNat < 5 ∨ L < ((B 0).extractLsb' 0 4).toNat * 4))

/-- R201: Truncated has exactly the four causes of the table, its thresholds those of 90_conflicts.md C1. -/
def Obligations.TruncatedHasExactlyFourCauses : Prop :=
  ∀ (B : Nat → Byte) (L : Nat) (T : Word),
    (wholeDecode B L T).err = .truncated ↔
      L < 20 ∨
      ((B 0).extractLsb' 4 4 = 4#4 ∧ 5 ≤ ((B 0).extractLsb' 0 4).toNat ∧ ((B 0).extractLsb' 0 4).toNat * 4 ≤ L ∧
        ((B 9 = 6#8 ∧ L - ((B 0).extractLsb' 0 4).toNat * 4 < 16) ∨
          (B 9 = 17#8 ∧ L - ((B 0).extractLsb' 0 4).toNat * 4 < 6) ∨
          (B 9 = 1#8 ∧ L - ((B 0).extractLsb' 0 4).toNat * 4 < 2)))

/-! ### Commands and host operations -/

/-- R175: START latches LEN and TS_IN and becomes BUSY; while BUSY it only records StartWhileBusy. A write of 1 to CMD is
the same. In both the host goes on to its next event (log 1). -/
def Obligations.StartLatchesItsInputs : Prop :=
  ∀ s : State,
    exec .start s = .next
      (if s.phase = .busy then faulted s .startWhileBusy
       else { s with lenL := s.len, tsL := s.tsIn, phase := .busy, hostQueue := s.hostQueue.tail }) ∧
    exec (.wreg 0#24 1#32) s = exec .start s

/-- R176: the value 0 written to CMD changes no state in any phase; the host goes on to its next event (log 1). -/
def Obligations.CmdNopChangesNothing : Prop :=
  ∀ s : State, exec .cmdNop s = .next { s with hostQueue := s.hostQueue.tail } ∧
    exec (.wreg 0#24 0#32) s = exec .cmdNop s

/-- R85: a write of any value to CMD by a host word has the effect of the command the value spells. -/
def Obligations.CmdWriteIsItsCommand : Prop :=
  ∀ (s : State) (v : Word), exec (.wreg 0#24 v) s = exec (decodeCmd v) s

/-- R177: register numbers of 34 and above, writes to registers 3 to 33, and CMD values with a bit of 31:1 set record
their fault and do nothing else; the host goes on to its next event (log 1). -/
def Obligations.IllegalRegisterOperationsRecordFaults : Prop :=
  ∀ (s : State) (n : BitVec 24) (v : Word),
    (34 ≤ n.toNat → exec (.wreg n v) s = .next (faulted s .badRegister) ∧
      exec (.rreg n) s = .next (faulted s .badRegister)) ∧
    (3 ≤ n.toNat → n.toNat ≤ 33 → exec (.wreg n v) s = .next (faulted s .readOnly)) ∧
    (v.extractLsb' 1 31 ≠ 0#31 → exec (.wreg 0#24 v) s = .next (faulted s .reservedCmdBits) ∧
      exec (.cmdReserved v) s = .next (faulted s .reservedCmdBits))

/-- R172: a host byte write: what it answers in every case, and what every buffer byte reads as afterwards; the host goes on
to its next event (log 1). The word's addresses have 24 bits (log 23); HostWritesReachEveryAddress speaks of all others. -/
def Obligations.WbufStoresOneByte : Prop :=
  ∀ (s : State) (a : BitVec 24) (d : Byte), ∃ t : State, exec (.wbuf a d) s = .next t ∧
    (if Config.bufLenMax ≤ a.toNat then t = faulted s .bufOutOfRange
     else if s.phase = .busy then t = faulted s .bufWriteWhileBusy
     else t = { s with buffer := t.buffer, hostQueue := s.hostQueue.tail } ∧
       ∀ b : Nat, t.byte? b = if b = a.toNat then some d else s.byte? b)

/-- R58, R62, R172: the host can write a byte at every address, a natural, below BUF_LEN_MAX, and at every other address it
records BufOutOfRange. The event is the model's own, for the addresses of 2^24 and above that no host word names (log 23);
at every address a word names, the word acts as the event does. -/
def Obligations.HostWritesReachEveryAddress : Prop :=
  ∀ (s : State) (a : Nat) (d : Byte) (rest : List HostEvent), s.hostQueue = .byteWrite a d :: rest →
    (∃ t : State, hostStep s = .next t ∧
      (if Config.bufLenMax ≤ a then t = faulted s .bufOutOfRange
       else if s.phase = .busy then t = faulted s .bufWriteWhileBusy
       else t = { s with buffer := t.buffer, hostQueue := s.hostQueue.tail } ∧
         ∀ b : Nat, t.byte? b = if b = a then some d else s.byte? b)) ∧
    (s.mover = .host → step s = afterMove (hostStep s)) ∧
    (a < 2 ^ 24 → hostStep s = exec (.wbuf (BitVec.ofNat 24 a) d) s)

/-- R173: a write to LEN of a value above BUF_LEN_MAX records LenTooLarge and leaves LEN; any other sets LEN alone, and
never the latch; the host goes on to its next event (log 1). -/
def Obligations.WregLenSetsLength : Prop :=
  ∀ (s : State) (v : Word),
    exec (.wreg 1#24 v) s = .next
      (if Config.bufLenMax < v.toNat then faulted s .lenTooLarge
       else { s with len := v, hostQueue := s.hostQueue.tail })

/-- R174: any 32-bit value written to TS_IN is accepted, and sets TS_IN alone; the host goes on to its next event
(log 1). -/
def Obligations.WregTsInSetsTimestamp : Prop :=
  ∀ (s : State) (v : Word), exec (.wreg 2#24 v) s = .next { s with tsIn := v, hostQueue := s.hostQueue.tail }

/-- R178: a read of a register returns its value, zero-extended; a result register cannot be read while BUSY,
and a read that faults returns nothing (log 24); the host goes on to its next event (log 1). -/
def Obligations.RregReturnsTheRegister : Prop :=
  ∀ (s : State) (n : BitVec 24) (r : Reg), regOf n.toNat = some r →
    exec (.rreg n) s = .next
      (if 4 ≤ n.toNat ∧ s.phase = .busy then faulted s .readWhileBusy
       else { s with hostReads := s.hostReads ++ [s.readReg r], hostQueue := s.hostQueue.tail })

/-- R179: WAIT goes on at once when PHASE is DONE; until then the host holds. That holding is a step that leaves the operation
pending and the state as it is, also in IDLE, is the model's choice (log 8). -/
def Obligations.WaitHoldsUntilDone : Prop :=
  ∀ s : State, exec .wait s = .next (if s.phase = .done then { s with hostQueue := s.hostQueue.tail } else s)

/-- R20, R21: the value a register returns fits the register's width, for every register of the table. -/
def Obligations.RegisterValuesFitTheirWidths : Prop :=
  ∀ (s : State) (r : Reg), (s.readReg r).toNat < 2 ^ regWidth r

/-- R20, R21: the register numbers, in the table's order, name the 34 registers with the widths the table gives, and no other
number names one. -/
def Obligations.RegisterNumbersAreTheTable : Prop :=
  (∀ n : Nat, regOf n = none ↔ 34 ≤ n) ∧
  (List.range 34).map regOf = [
    some .cmd, some .len, some .tsIn, some .phase, some .err, some .cls, some .version, some .ihl, some .hdrBytes,
    some .dscp, some .ecn, some .totalLen, some .ident, some .flagRsv, some .flagDf, some .flagMf, some .fragOff,
    some .ttl, some .proto, some .hdrCksum, some .srcAddr, some .dstAddr, some .srcPort, some .dstPort, some .tcpSeq,
    some .tcpAck, some .tcpDoff, some .tcpFlags, some .tcpWin, some .udpLen, some .icmpType, some .icmpCode,
    some .tsOut, some .protoKnown] ∧
  (List.range 34).map (fun n => (regOf n).map regWidth) = [
    some 32, some 32, some 32, some 2, some 2, some 2, some 4, some 4, some 6, some 6, some 2, some 16, some 16,
    some 1, some 1, some 1, some 13, some 8, some 8, some 16, some 32, some 32, some 16, some 16, some 32, some 32,
    some 4, some 6, some 16, some 16, some 8, some 8, some 32, some 1]

/-- R20, R21, R23, R25, R28, R29: what a read of each of the 34 registers returns: 0 for CMD, the codes of the phase, the
outcome and the transport class, and every other register's own field, zero-extended. -/
def Obligations.RegistersReadTheirFields : Prop :=
  ∀ s : State,
    s.readReg .cmd = 0#32 ∧ s.readReg .len = s.len ∧ s.readReg .tsIn = s.tsIn ∧
    (s.phase = .idle → s.readReg .phase = 0#32) ∧ (s.phase = .busy → s.readReg .phase = 1#32) ∧
    (s.phase = .done → s.readReg .phase = 2#32) ∧
    (s.results.err = .ok → s.readReg .err = 0#32) ∧ (s.results.err = .truncated → s.readReg .err = 1#32) ∧
    (s.results.err = .unsupportedVersion → s.readReg .err = 2#32) ∧
    (s.results.err = .malformedHeader → s.readReg .err = 3#32) ∧
    (s.results.cls = .other → s.readReg .cls = 0#32) ∧ (s.results.cls = .icmp → s.readReg .cls = 1#32) ∧
    (s.results.cls = .tcp → s.readReg .cls = 2#32) ∧ (s.results.cls = .udp → s.readReg .cls = 3#32) ∧
    s.readReg .version = s.results.version.setWidth 32 ∧ s.readReg .ihl = s.results.ihl.setWidth 32 ∧
    s.readReg .hdrBytes = s.results.hdrBytes.setWidth 32 ∧ s.readReg .dscp = s.results.dscp.setWidth 32 ∧
    s.readReg .ecn = s.results.ecn.setWidth 32 ∧ s.readReg .totalLen = s.results.totalLen.setWidth 32 ∧
    s.readReg .ident = s.results.ident.setWidth 32 ∧ s.readReg .flagRsv = s.results.flagRsv.setWidth 32 ∧
    s.readReg .flagDf = s.results.flagDf.setWidth 32 ∧ s.readReg .flagMf = s.results.flagMf.setWidth 32 ∧
    s.readReg .fragOff = s.results.fragOff.setWidth 32 ∧ s.readReg .ttl = s.results.ttl.setWidth 32 ∧
    s.readReg .proto = s.results.proto.setWidth 32 ∧ s.readReg .hdrCksum = s.results.hdrCksum.setWidth 32 ∧
    s.readReg .srcAddr = s.results.srcAddr ∧ s.readReg .dstAddr = s.results.dstAddr ∧
    s.readReg .srcPort = s.results.srcPort.setWidth 32 ∧ s.readReg .dstPort = s.results.dstPort.setWidth 32 ∧
    s.readReg .tcpSeq = s.results.tcpSeq ∧ s.readReg .tcpAck = s.results.tcpAck ∧
    s.readReg .tcpDoff = s.results.tcpDoff.setWidth 32 ∧ s.readReg .tcpFlags = s.results.tcpFlags.setWidth 32 ∧
    s.readReg .tcpWin = s.results.tcpWin.setWidth 32 ∧ s.readReg .udpLen = s.results.udpLen.setWidth 32 ∧
    s.readReg .icmpType = s.results.icmpType.setWidth 32 ∧ s.readReg .icmpCode = s.results.icmpCode.setWidth 32 ∧
    s.readReg .tsOut = s.results.tsOut ∧ s.readReg .protoKnown = s.results.protoKnown.setWidth 32

/-! ### Frames -/

/-- What the three commands and the four host words leave unchanged, for every form (R172 to R179): the result registers,
the lines written and the turn always; each input register, latch, PHASE, the observed reads, each host fault and each
buffer byte but where the instruction is the one that writes it. -/
def Obligations.HostInstructionsFrame : Prop :=
  ∀ (i : Instr) (s t : State), isDecodePath i = false → exec i s = .next t →
    t.results = s.results ∧ t.lines = s.lines ∧ t.turn = s.turn ∧ t.tick = s.tick ∧
    ((∀ v, i ≠ .wreg 1#24 v) → t.len = s.len) ∧
    ((∀ v, i ≠ .wreg 2#24 v) → t.tsIn = s.tsIn) ∧
    (i ≠ .start → i ≠ .wreg 0#24 1#32 → t.phase = s.phase ∧ t.lenL = s.lenL ∧ t.tsL = s.tsL) ∧
    ((∀ n, i ≠ .rreg n) → t.hostReads = s.hostReads) ∧
    (∀ f : HostFault, f ∉ ownFaults i → t.hostFaults.has f = s.hostFaults.has f) ∧
    (∀ b : Nat, (∀ (a : BitVec 24) (d : Byte), i = .wbuf a d → b ≠ a.toNat) → t.byte? b = s.byte? b)

/-- What the nine decode paths leave unchanged (R55, R206, R209): everything but the result registers, PHASE and, at most,
the record of UnwrittenByte; the block never writes the buffer. -/
def Obligations.DecodePathsFrame : Prop :=
  ∀ (i : Instr) (s t : State), isDecodePath i = true → exec i s = .next t →
    t.len = s.len ∧ t.tsIn = s.tsIn ∧ t.lenL = s.lenL ∧ t.tsL = s.tsL ∧
    t.hostQueue = s.hostQueue ∧ t.hostReads = s.hostReads ∧ t.lines = s.lines ∧ t.turn = s.turn ∧ t.tick = s.tick ∧
    (∀ b : Nat, t.byte? b = s.byte? b) ∧
    (∀ f : HostFault, f ∉ ownFaults i → t.hostFaults.has f = s.hostFaults.has f) ∧
    (t.hostFaults = s.hostFaults ∨ t.results = s.results)

/-! ### The whole machine -/

/-- R63, R180 (and the model's own scheduling, log 1 and log 2): when the host moves, a step runs the instruction its next
event decodes to, then draws the next turn; when the block moves, the block's step, which with its key bytes written is the
path they select. With no event left and outside BUSY only the turn is drawn (R232, log 9). -/
def Obligations.StepRunsTheDecodedInstruction : Prop :=
  (∀ (s : State) (w : HostWord) (rest : List HostEvent) (i : Instr), s.mover = .host →
    s.hostQueue = .word w :: rest → decodeHostWord w = .ok i → step s = afterMove (exec i s)) ∧
  (∀ (s : State) (v : Word) (rest : List HostEvent), s.mover = .host → s.hostQueue = .cmd v :: rest →
    step s = afterMove (exec (decodeCmd v) s)) ∧
  (∀ s : State, s.mover = .block → step s = afterMove (blockStep s)) ∧
  (∀ (s : State) (i : Instr), s.mover = .block → selectPath s.lenL.toNat (s.byte? 0) (s.byte? 9) = some i →
    step s = afterMove (exec i s)) ∧
  (∀ (s : State) (b0 b9 : Byte), s.mover = .block → s.byte? 0 = some b0 → s.byte? 9 = some b9 →
    step s = afterMove (exec (decodeKey s.lenL.toNat (b0 ++ b9)) s)) ∧
  (∀ s : State, s.hostQueue = [] → s.phase ≠ .busy → step s = afterMove (.next s)) ∧
  ∀ t : State, afterMove (.next t) = .next { t with turn := Config.nextMover t.tick, tick := t.tick + 1 }

/-- R58, R26, R30, R42, R206: every step keeps the invariant: the buffer canonical and within BUF_LEN_MAX, LEN and LEN_L
legal lengths, the result registers those of one error or one success, and 0 while IDLE. -/
def Obligations.EveryStepKeepsTheInvariant : Prop :=
  ∀ s t : State, s.Inv → step s = .next t → t.Inv

/-- The reset state meets the invariant. -/
def Obligations.ResetMeetsTheInvariant : Prop := State.reset.Inv

/-- R42, R209: the result registers change only at a completion and at reset, which makes them 0. -/
def Obligations.ResultsChangeOnlyAtCompletionAndReset : Prop :=
  ∀ s t : State, step s = .next t → t.results ≠ s.results →
    (s.mover = .block ∧ t.phase = .done) ∨ (nextResets s ∧ t.results = Results.zero)

/-- R23: PHASE moves to BUSY only by a START, to DONE only by a completion, to IDLE only by the reset input. -/
def Obligations.PhaseMovesOnlyAlongItsTransitions : Prop :=
  ∀ s t : State, step s = .next t → t.phase ≠ s.phase →
    (t.phase = .busy ∧ s.mover = .host ∧ nextWrites s 0 1#32) ∨
    (s.phase = .busy ∧ t.phase = .done ∧ s.mover = .block) ∨
    (t.phase = .idle ∧ s.mover = .host ∧ nextResets s)

/-- R43: the latches change only at a START, which copies LEN and TS_IN as they then are, and at reset, which clears
them. -/
def Obligations.LatchesChangeOnlyAtStartAndReset : Prop :=
  ∀ s t : State, step s = .next t → (t.lenL ≠ s.lenL ∨ t.tsL ≠ s.tsL) →
    (nextWrites s 0 1#32 ∧ s.phase ≠ .busy ∧ t.lenL = s.len ∧ t.tsL = s.tsIn) ∨
    (nextResets s ∧ t.lenL = 0#32 ∧ t.tsL = 0#32)

/-- R55, R235: a buffer byte changes only by a host write to it while not BUSY, or loses its value at reset. -/
def Obligations.BufferChangesOnlyByHostWrites : Prop :=
  ∀ (s t : State) (b : Nat), step s = .next t → t.byte? b ≠ s.byte? b →
    (s.mover = .host ∧ s.phase ≠ .busy ∧ b < Config.bufLenMax ∧ ∃ d, nextStores s b d ∧ t.byte? b = some d) ∨
    (s.mover = .host ∧ nextResets s ∧ t.byte? b = none)

/-- R48, R171: a recorded host fault is never removed, not even by reset. -/
def Obligations.HostFaultsAreNeverRemoved : Prop :=
  ∀ (s t : State) (f : HostFault), step s = .next t → s.hostFaults.has f = true → t.hostFaults.has f = true

/-- R171: each host fault is recorded only when the table says so. -/
def Obligations.HostFaultsHaveTheirCauses : Prop :=
  ∀ (s t : State) (f : HostFault), step s = .next t → s.hostFaults.has f = false → t.hostFaults.has f = true →
    faultCause s f

/-- R230, R242, R48: the reset input, in any phase, gives everything R47 lists its reset value, commits nothing and
leaves the host-fault record. -/
def Obligations.ResetInputClearsTheBlock : Prop :=
  ∀ (s : State) (rest : List HostEvent), s.mover = .host → s.hostQueue = .reset :: rest →
    ∃ t : State, step s = .next t ∧ t.phase = .idle ∧ (∀ r : Reg, t.readReg r = 0#32) ∧ t.lenL = 0#32 ∧ t.tsL = 0#32 ∧
      (∀ b : Nat, t.byte? b = none) ∧ t.hostFaults = s.hostFaults ∧ t.hostQueue = rest

/-- R47: right after reset PHASE is IDLE, every register reads 0, the latches are 0 and no byte is written. The host-fault
record is empty: the model's choice (log 7). -/
def Obligations.ResetStateIsTheSpecs : Prop :=
  State.reset.phase = .idle ∧ (∀ r : Reg, State.reset.readReg r = 0#32) ∧ State.reset.lenL = 0#32 ∧
    State.reset.tsL = 0#32 ∧ (∀ b : Nat, State.reset.byte? b = none) ∧ State.reset.noHostFault

/-- R180: COMPLETE has a step only while PHASE is BUSY, and it always answers a next state in DONE. Which agent moves while
both can is the model's scheduling (log 1, log 2, log 19): while BUSY the block moves exactly where the host has no event
left, is at a WAIT (R179), or does not have the turn; so a host that waits never keeps the block from completing. -/
def Obligations.BlockMovesWhileBusyAndCompletes : Prop :=
  ∀ s : State,
    (s.mover = .block ↔ s.phase = .busy ∧ (hostWaits s ∨ s.turn = .block)) ∧
    (s.mover = .block → ∃ t, step s = .next t ∧ t.phase = .done)

/-- R180, R241: weak fairness, in the model's form of it (log 19): a decode in progress ends, by completion or reset, within as
many steps as the host has events pending in its finite queue (log 1) and one more, whoever the turns favour (log 2); the
pending host words are words that spell operations. -/
def Obligations.EveryDecodeEnds : Prop :=
  ∀ s : State, s.phase = .busy → (∀ w, HostEvent.word w ∈ s.hostQueue → ∃ i, decodeHostWord w = .ok i) →
    ∃ (k : Nat) (t : State), k ≤ s.hostQueue.length + 1 ∧ Host.Core.run core k s = .next t ∧ t.phase ≠ .busy

/-- R86, R170: no step faults, and a step is refused only for a host word that spells no operation. That the step then
answers the refusal badHostWord with the decoder's reason is the model's reading (log 25), and that the fault guardNotMet
of a meaning is never a step's answer is the model's choice of where that fault stands (log 12). -/
def Obligations.StepStopsOnlyOnUnspellableWords : Prop :=
  ∀ s : State, (∀ f, step s ≠ .fault f) ∧
    ∀ r, step s = .refused r → ∃ w rest why, s.hostQueue = .word w :: rest ∧ decodeHostWord w = .error why ∧
      r = .badHostWord why

/-! ### The protocol table and the formatter -/

/-- R131: class_of of every protocol number, and the number each class has in CLASS. -/
def Obligations.ClassOfEveryProtocol : Prop :=
  (∀ p : Byte, classOf p = if p = 6#8 then .tcp else if p = 17#8 then .udp else if p = 1#8 then .icmp else .other) ∧
    classCode .other = 0#2 ∧ classCode .icmp = 1#2 ∧ classCode .tcp = 2#2 ∧ classCode .udp = 3#2

/-- R160, R161, R162: name_for is total and never empty; its fixed entries are those of the source; PROTO_KNOWN is 1
exactly for the protocols with a name other than Unknown. -/
def Obligations.ProtocolTableIsTotal : Prop :=
  (∀ p : Byte, nameFor p ≠ "") ∧ nameFor 1 = "ICMP" ∧ nameFor 6 = "TCP" ∧ nameFor 17 = "UDP" ∧
    (∀ p : Byte, 148 ≤ p.toNat → nameFor p = "Unknown") ∧
    ∀ p : Byte, protoKnownOf p = 1#1 ↔ nameFor p ≠ "Unknown"

/-- R192: with Don't-Fragment set, DF is the last token of every line, whatever the class and the mode, and without it
there is none at the end; More-Fragments and the reserved bit print nothing. -/
def Obligations.DontFragmentIsTheLastToken : Prop :=
  ∀ (r : Results) (verbose : Bool), r.err = .ok →
    (∃ tokens, formatTokens { r with flagDf := 0#1 } verbose = some tokens ∧
      formatTokens { r with flagDf := 1#1 } verbose = some (tokens ++ ["DF"])) ∧
    ∀ rsv mf : BitVec 1, formatTokens { r with flagRsv := rsv, flagMf := mf } verbose = formatTokens r verbose

/-- R183, R186 to R191: the tokens of the lines of all four classes. TCP and UDP show ports, and only TCP has flag tokens, in
the order FIN to URG, and in verbose mode seq, ack and win; ICMP has its type and code, and a description for the five
types of the source's table (log 22); UDP and Other add no transport token in either mode. -/
def Obligations.LinesHaveTheTokensOfTheirClass : Prop :=
  ∀ (r : Results) (verbose : Bool), r.err = .ok →
    (r.cls = .tcp → formatTokens r verbose = some (lineTokens r verbose
      (dotted r.srcAddr ++ ":" ++ decimal r.srcPort.toNat) (dotted r.dstAddr ++ ":" ++ decimal r.dstPort.toNat)
      ((if r.tcpFlags.getLsbD 0 = true then ["FIN"] else []) ++ (if r.tcpFlags.getLsbD 1 = true then ["SYN"] else []) ++
        (if r.tcpFlags.getLsbD 2 = true then ["RST"] else []) ++ (if r.tcpFlags.getLsbD 3 = true then ["PSH"] else []) ++
        (if r.tcpFlags.getLsbD 4 = true then ["ACK"] else []) ++ (if r.tcpFlags.getLsbD 5 = true then ["URG"] else []) ++
        (if verbose = true then
          ["seq", decimal r.tcpSeq.toNat, "ack", decimal r.tcpAck.toNat, "win", decimal r.tcpWin.toNat] else [])))) ∧
    (r.cls = .udp → formatTokens r verbose = some (lineTokens r verbose
      (dotted r.srcAddr ++ ":" ++ decimal r.srcPort.toNat) (dotted r.dstAddr ++ ":" ++ decimal r.dstPort.toNat) [])) ∧
    (r.cls = .icmp → formatTokens r verbose = some (lineTokens r verbose (dotted r.srcAddr) (dotted r.dstAddr)
      (["type", decimal r.icmpType.toNat, "code", decimal r.icmpCode.toNat] ++
        (if r.icmpType = 0#8 then ["[echo reply]"]
         else if r.icmpType = 8#8 then ["[echo request]"]
         else if r.icmpType = 3#8 then ["[destination unreachable]"]
         else if r.icmpType = 5#8 then ["[redirect]"]
         else if r.icmpType = 1#8 then ["[time exceeded]"] else [])))) ∧
    (r.cls = .other → formatTokens r verbose = some (lineTokens r verbose (dotted r.srcAddr) (dotted r.dstAddr) []))

/-- R194: the verbose flag changes no branch: the short line's tokens are among the verbose line's, in order. -/
def Obligations.VerboseOnlyAddsTokens : Prop :=
  ∀ (r : Results) (short long : List String), formatTokens r false = some short → formatTokens r true = some long →
    short.Sublist long

/-- R182, R178: the capture loop's output step, in every phase: in DONE it writes the formatted line of a successful decode, and
nothing after a decode error; while BUSY it records ReadWhileBusy and writes nothing; in IDLE it does nothing. In each
the host goes on, and no register, latch or buffer byte changes. That the output step is one event, what it does
while BUSY and in IDLE, and that its own reads add nothing to the values RREG returned (R181), are the model's choice
(log 20). -/
def Obligations.CaptureLoopWritesOnlyDecodedPackets : Prop :=
  (∀ (s : State) (verbose : Bool) (rest : List HostEvent), s.mover = .host → s.hostQueue = .emit verbose :: rest →
    step s = .next { s with
      lines := if s.phase = .done then s.lines ++ (formatTokens s.results verbose).toList else s.lines
      hostFaults := if s.phase = .busy then s.hostFaults.record .readWhileBusy else s.hostFaults
      hostQueue := rest
      turn := Config.nextMover s.tick
      tick := s.tick + 1 }) ∧
  ∀ (r : Results) (verbose : Bool), (∃ tokens, formatTokens r verbose = some tokens) ↔ r.err = .ok
end

