-- ==== Sys2Proof/Laws/Encoding.lean ====
section
/-! SUPPORT. The fields of encoded words, and the cases of the small decoding functions. -/

namespace Sys2Proof

/-! ### Host operation words -/

/-- Bit by bit, a host word is its data, its argument and its op. -/
theorem encodeHost_bit (op : BitVec 8) (arg : BitVec 24) (data : Word) (k : Nat) :
    (encodeHost op arg data).getLsbD k =
      if k < 32 then data.getLsbD k else if k < 56 then arg.getLsbD (k - 32) else op.getLsbD (k - 56) := by
  have h1 : (encodeHost op arg data).getLsbD k =
      if k < 32 then data.getLsbD k else (op ++ arg).getLsbD (k - 32) := BitVec.getLsbD_append
  have h2 : (op ++ arg).getLsbD (k - 32) =
      if k - 32 < 24 then arg.getLsbD (k - 32) else op.getLsbD (k - 32 - 24) := BitVec.getLsbD_append
  rw [h1, h2]
  split
  · rfl
  · by_cases h : k < 56
    · rw [if_pos h, if_pos (by omega)]
    · rw [if_neg h, if_neg (by omega), show k - 32 - 24 = k - 56 by omega]

theorem hostOp_encodeHost (op : BitVec 8) (arg : BitVec 24) (data : Word) :
    hostOp (encodeHost op arg data) = op := by
  apply BitVec.eq_of_getLsbD_eq
  intro j hj
  rw [hostOp, BitVec.getLsbD_extractLsb', encodeHost_bit, if_neg (by omega), if_neg (by omega)]
  simp [hj]

theorem hostArg_encodeHost (op : BitVec 8) (arg : BitVec 24) (data : Word) :
    hostArg (encodeHost op arg data) = arg := by
  apply BitVec.eq_of_getLsbD_eq
  intro j hj
  rw [hostArg, BitVec.getLsbD_extractLsb', encodeHost_bit, if_neg (by omega), if_pos (by omega)]
  simp [hj]

theorem hostData_encodeHost (op : BitVec 8) (arg : BitVec 24) (data : Word) :
    hostData (encodeHost op arg data) = data := by
  apply BitVec.eq_of_getLsbD_eq
  intro j hj
  rw [hostData, BitVec.getLsbD_extractLsb', encodeHost_bit, if_pos (by omega)]
  simp [hj]

/-- A host word is the encoding of its three fields. -/
theorem encodeHost_fields (w : HostWord) : encodeHost (hostOp w) (hostArg w) (hostData w) = w := by
  apply BitVec.eq_of_getLsbD_eq
  intro j hj
  rw [encodeHost_bit]
  split
  · rename_i h
    simp [hostData, h]
  · split
    · rename_i h1 h2
      rw [hostArg, BitVec.getLsbD_extractLsb', show 32 + (j - 32) = j by omega]
      simp [show j - 32 < 24 by omega]
    · rw [hostOp, BitVec.getLsbD_extractLsb', show 56 + (j - 56) = j by omega]
      simp [show j - 56 < 8 by omega]

/-- A word's data field from its byte and the bits above it. -/
theorem data_of_byte (data : Word) (h : data.extractLsb' 8 24 = 0#24) :
    (0#24 ++ data.extractLsb' 0 8 : BitVec 32) = data := by
  apply BitVec.eq_of_getLsbD_eq
  intro j hj
  have h1 : (0#24 ++ data.extractLsb' 0 8 : BitVec 32).getLsbD j =
      if j < 8 then (data.extractLsb' 0 8).getLsbD j else (0#24).getLsbD (j - 8) := BitVec.getLsbD_append
  rw [h1]
  split
  · rename_i h8
    simp [h8]
  · have := congrArg (fun v => v.getLsbD (j - 8)) h
    simp only [BitVec.getLsbD_extractLsb', show 8 + (j - 8) = j by omega] at this
    simp [show j - 8 < 24 by omega] at this ⊢
    exact this

theorem data_high (d : Byte) : (0#24 ++ d : BitVec 32).extractLsb' 8 24 = 0#24 := by
  revert d; decide

theorem data_low (d : Byte) : (0#24 ++ d : BitVec 32).extractLsb' 0 8 = d := by
  revert d; decide

/-! ### Dispatch keys -/

/-- Bit by bit, a dispatch key is its protocol, its header length and its version. -/
theorem encodeKey_bit (version ihl : BitVec 4) (proto : Byte) (k : Nat) :
    (encodeKey version ihl proto).getLsbD k =
      if k < 8 then proto.getLsbD k else if k < 12 then ihl.getLsbD (k - 8) else version.getLsbD (k - 12) := by
  have h1 : (encodeKey version ihl proto).getLsbD k =
      if k < 8 then proto.getLsbD k else (version ++ ihl).getLsbD (k - 8) := BitVec.getLsbD_append
  have h2 : (version ++ ihl).getLsbD (k - 8) =
      if k - 8 < 4 then ihl.getLsbD (k - 8) else version.getLsbD (k - 8 - 4) := BitVec.getLsbD_append
  rw [h1, h2]
  split
  · rfl
  · by_cases h : k < 12
    · rw [if_pos h, if_pos (by omega)]
    · rw [if_neg h, if_neg (by omega), show k - 8 - 4 = k - 12 by omega]

theorem encodeKey_low (version ihl : BitVec 4) (proto : Byte) :
    (encodeKey version ihl proto).extractLsb' 0 8 = proto := by
  apply BitVec.eq_of_getLsbD_eq
  intro j hj
  rw [BitVec.getLsbD_extractLsb', encodeKey_bit, if_pos (by omega)]
  simp [hj]

theorem encodeKey_high (version ihl : BitVec 4) (proto : Byte) :
    (encodeKey version ihl proto).extractLsb' 8 8 = version ++ ihl := by
  apply BitVec.eq_of_getLsbD_eq
  intro j hj
  have h : (version ++ ihl).getLsbD j = if j < 4 then ihl.getLsbD j else version.getLsbD (j - 4) :=
    BitVec.getLsbD_append
  rw [BitVec.getLsbD_extractLsb', encodeKey_bit, if_neg (by omega)]
  refine Eq.trans ?_ h.symm
  by_cases h4 : j < 4
  · rw [if_pos (by omega), if_pos h4]
    simp [hj]
  · rw [if_neg (by omega), if_neg h4, show 8 + j - 12 = j - 4 by omega]
    simp [hj]

theorem versionOf_append (version ihl : BitVec 4) : versionOf (version ++ ihl) = version := by
  revert version ihl; decide

theorem ihlOf_append (version ihl : BitVec 4) : ihlOf (version ++ ihl) = ihl := by
  revert version ihl; decide

/-! ### The protocol's class -/

/-- The four cases of R131. -/
theorem classOf_cases (p : Byte) :
    (p = 6#8 ∧ classOf p = .tcp) ∨ (p = 17#8 ∧ classOf p = .udp) ∨ (p = 1#8 ∧ classOf p = .icmp) ∨
      (p ≠ 6#8 ∧ p ≠ 17#8 ∧ p ≠ 1#8 ∧ classOf p = .other) := by
  unfold classOf
  by_cases h6 : p = 6#8
  · exact .inl ⟨h6, by simp [h6]⟩
  · by_cases h17 : p = 17#8
    · exact .inr (.inl ⟨h17, by simp [h17]⟩)
    · by_cases h1 : p = 1#8
      · exact .inr (.inr (.inl ⟨h1, by simp [h1]⟩))
      · exact .inr (.inr (.inr ⟨h6, h17, h1, by simp [h6, h17, h1]⟩))

/-! ### The header paths -/

/-- What the version/header-length byte selects (R104, R107): a reject path, or none where the header is accepted. -/
theorem headerPath_cases (len : Nat) (vb : Byte) :
    (versionOf vb ≠ 4#4 ∧ headerPath len vb = some (.unsupportedVersion (versionOf vb))) ∨
    (versionOf vb = 4#4 ∧ (ihlOf vb).toNat < 4 ∧ headerPath len vb = some (.malformedIhl03 (ihlOf vb))) ∨
    (versionOf vb = 4#4 ∧ ihlOf vb = 4#4 ∧ headerPath len vb = some .malformedIhl4) ∨
    (versionOf vb = 4#4 ∧ 5 ≤ (ihlOf vb).toNat ∧ len < hdrBytesOf (ihlOf vb) ∧
      headerPath len vb = some (.malformedOverlength (ihlOf vb))) ∨
    (versionOf vb = 4#4 ∧ 5 ≤ (ihlOf vb).toNat ∧ hdrBytesOf (ihlOf vb) ≤ len ∧ headerPath len vb = none) := by
  unfold headerPath
  by_cases hv : versionOf vb = 4#4
  · by_cases h3 : (ihlOf vb).toNat < 4
    · exact .inr (.inl ⟨hv, h3, by simp [hv, h3]⟩)
    · by_cases h4 : ihlOf vb = 4#4
      · exact .inr (.inr (.inl ⟨hv, h4, by simp [hv, h4]⟩))
      · have h5 : 5 ≤ (ihlOf vb).toNat := by
          have : (ihlOf vb).toNat ≠ 4 := fun h => h4 (BitVec.eq_of_toNat_eq h)
          omega
        by_cases hl : len < hdrBytesOf (ihlOf vb)
        · exact .inr (.inr (.inr (.inl ⟨hv, h5, hl, by simp [hv, h3, h4, hl]⟩)))
        · exact .inr (.inr (.inr (.inr ⟨hv, h5, by omega, by simp [hv, h3, h4, hl]⟩)))
  · exact .inl ⟨hv, by simp [hv]⟩

end Sys2Proof
end

