-- ==== Sys2Proof/Laws/State.lean ====
section
/-! SUPPORT. What each field update of State leaves in each field: one lemma a field and update, so that no proof unfolds a
record update. -/

namespace Sys2Proof.Machine
/-! ### setPhase -/
@[simp] theorem State.setPhase_phase (s : State) (p : Phase) : (s.setPhase p).phase = p := rfl
@[simp] theorem State.setPhase_len (s : State) (p : Phase) : (s.setPhase p).len = s.len := rfl
@[simp] theorem State.setPhase_tsIn (s : State) (p : Phase) : (s.setPhase p).tsIn = s.tsIn := rfl
@[simp] theorem State.setPhase_lenL (s : State) (p : Phase) : (s.setPhase p).lenL = s.lenL := rfl
@[simp] theorem State.setPhase_tsL (s : State) (p : Phase) : (s.setPhase p).tsL = s.tsL := rfl
@[simp] theorem State.setPhase_results (s : State) (p : Phase) : (s.setPhase p).results = s.results := rfl
@[simp] theorem State.setPhase_buffer (s : State) (p : Phase) : (s.setPhase p).buffer = s.buffer := rfl
@[simp] theorem State.setPhase_hostFaults (s : State) (p : Phase) : (s.setPhase p).hostFaults = s.hostFaults := rfl
@[simp] theorem State.setPhase_hostQueue (s : State) (p : Phase) : (s.setPhase p).hostQueue = s.hostQueue := rfl
@[simp] theorem State.setPhase_hostReads (s : State) (p : Phase) : (s.setPhase p).hostReads = s.hostReads := rfl
@[simp] theorem State.setPhase_lines (s : State) (p : Phase) : (s.setPhase p).lines = s.lines := rfl
@[simp] theorem State.setPhase_turn (s : State) (p : Phase) : (s.setPhase p).turn = s.turn := rfl
@[simp] theorem State.setPhase_tick (s : State) (p : Phase) : (s.setPhase p).tick = s.tick := rfl
@[simp] theorem State.setPhase_byte (s : State) (p : Phase) (k : Nat) : (s.setPhase p).byte? k = s.byte? k := rfl
/-! ### setLen -/
@[simp] theorem State.setLen_phase (s : State) (v : Word) : (s.setLen v).phase = s.phase := rfl
@[simp] theorem State.setLen_len (s : State) (v : Word) : (s.setLen v).len = v := rfl
@[simp] theorem State.setLen_tsIn (s : State) (v : Word) : (s.setLen v).tsIn = s.tsIn := rfl
@[simp] theorem State.setLen_lenL (s : State) (v : Word) : (s.setLen v).lenL = s.lenL := rfl
@[simp] theorem State.setLen_tsL (s : State) (v : Word) : (s.setLen v).tsL = s.tsL := rfl
@[simp] theorem State.setLen_results (s : State) (v : Word) : (s.setLen v).results = s.results := rfl
@[simp] theorem State.setLen_buffer (s : State) (v : Word) : (s.setLen v).buffer = s.buffer := rfl
@[simp] theorem State.setLen_hostFaults (s : State) (v : Word) : (s.setLen v).hostFaults = s.hostFaults := rfl
@[simp] theorem State.setLen_hostQueue (s : State) (v : Word) : (s.setLen v).hostQueue = s.hostQueue := rfl
@[simp] theorem State.setLen_hostReads (s : State) (v : Word) : (s.setLen v).hostReads = s.hostReads := rfl
@[simp] theorem State.setLen_lines (s : State) (v : Word) : (s.setLen v).lines = s.lines := rfl
@[simp] theorem State.setLen_turn (s : State) (v : Word) : (s.setLen v).turn = s.turn := rfl
@[simp] theorem State.setLen_tick (s : State) (v : Word) : (s.setLen v).tick = s.tick := rfl
@[simp] theorem State.setLen_byte (s : State) (v : Word) (k : Nat) : (s.setLen v).byte? k = s.byte? k := rfl
/-! ### setTsIn -/
@[simp] theorem State.setTsIn_phase (s : State) (v : Word) : (s.setTsIn v).phase = s.phase := rfl
@[simp] theorem State.setTsIn_len (s : State) (v : Word) : (s.setTsIn v).len = s.len := rfl
@[simp] theorem State.setTsIn_tsIn (s : State) (v : Word) : (s.setTsIn v).tsIn = v := rfl
@[simp] theorem State.setTsIn_lenL (s : State) (v : Word) : (s.setTsIn v).lenL = s.lenL := rfl
@[simp] theorem State.setTsIn_tsL (s : State) (v : Word) : (s.setTsIn v).tsL = s.tsL := rfl
@[simp] theorem State.setTsIn_results (s : State) (v : Word) : (s.setTsIn v).results = s.results := rfl
@[simp] theorem State.setTsIn_buffer (s : State) (v : Word) : (s.setTsIn v).buffer = s.buffer := rfl
@[simp] theorem State.setTsIn_hostFaults (s : State) (v : Word) : (s.setTsIn v).hostFaults = s.hostFaults := rfl
@[simp] theorem State.setTsIn_hostQueue (s : State) (v : Word) : (s.setTsIn v).hostQueue = s.hostQueue := rfl
@[simp] theorem State.setTsIn_hostReads (s : State) (v : Word) : (s.setTsIn v).hostReads = s.hostReads := rfl
@[simp] theorem State.setTsIn_lines (s : State) (v : Word) : (s.setTsIn v).lines = s.lines := rfl
@[simp] theorem State.setTsIn_turn (s : State) (v : Word) : (s.setTsIn v).turn = s.turn := rfl
@[simp] theorem State.setTsIn_tick (s : State) (v : Word) : (s.setTsIn v).tick = s.tick := rfl
@[simp] theorem State.setTsIn_byte (s : State) (v : Word) (k : Nat) : (s.setTsIn v).byte? k = s.byte? k := rfl
/-! ### latchInputs -/
@[simp] theorem State.latchInputs_phase (s : State) : (s.latchInputs).phase = s.phase := rfl
@[simp] theorem State.latchInputs_len (s : State) : (s.latchInputs).len = s.len := rfl
@[simp] theorem State.latchInputs_tsIn (s : State) : (s.latchInputs).tsIn = s.tsIn := rfl
@[simp] theorem State.latchInputs_lenL (s : State) : (s.latchInputs).lenL = s.len := rfl
@[simp] theorem State.latchInputs_tsL (s : State) : (s.latchInputs).tsL = s.tsIn := rfl
@[simp] theorem State.latchInputs_results (s : State) : (s.latchInputs).results = s.results := rfl
@[simp] theorem State.latchInputs_buffer (s : State) : (s.latchInputs).buffer = s.buffer := rfl
@[simp] theorem State.latchInputs_hostFaults (s : State) : (s.latchInputs).hostFaults = s.hostFaults := rfl
@[simp] theorem State.latchInputs_hostQueue (s : State) : (s.latchInputs).hostQueue = s.hostQueue := rfl
@[simp] theorem State.latchInputs_hostReads (s : State) : (s.latchInputs).hostReads = s.hostReads := rfl
@[simp] theorem State.latchInputs_lines (s : State) : (s.latchInputs).lines = s.lines := rfl
@[simp] theorem State.latchInputs_turn (s : State) : (s.latchInputs).turn = s.turn := rfl
@[simp] theorem State.latchInputs_tick (s : State) : (s.latchInputs).tick = s.tick := rfl
@[simp] theorem State.latchInputs_byte (s : State) (k : Nat) : (s.latchInputs).byte? k = s.byte? k := rfl
/-! ### setResults -/
@[simp] theorem State.setResults_phase (s : State) (r : Results) : (s.setResults r).phase = s.phase := rfl
@[simp] theorem State.setResults_len (s : State) (r : Results) : (s.setResults r).len = s.len := rfl
@[simp] theorem State.setResults_tsIn (s : State) (r : Results) : (s.setResults r).tsIn = s.tsIn := rfl
@[simp] theorem State.setResults_lenL (s : State) (r : Results) : (s.setResults r).lenL = s.lenL := rfl
@[simp] theorem State.setResults_tsL (s : State) (r : Results) : (s.setResults r).tsL = s.tsL := rfl
@[simp] theorem State.setResults_results (s : State) (r : Results) : (s.setResults r).results = r := rfl
@[simp] theorem State.setResults_buffer (s : State) (r : Results) : (s.setResults r).buffer = s.buffer := rfl
@[simp] theorem State.setResults_hostFaults (s : State) (r : Results) : (s.setResults r).hostFaults = s.hostFaults := rfl
@[simp] theorem State.setResults_hostQueue (s : State) (r : Results) : (s.setResults r).hostQueue = s.hostQueue := rfl
@[simp] theorem State.setResults_hostReads (s : State) (r : Results) : (s.setResults r).hostReads = s.hostReads := rfl
@[simp] theorem State.setResults_lines (s : State) (r : Results) : (s.setResults r).lines = s.lines := rfl
@[simp] theorem State.setResults_turn (s : State) (r : Results) : (s.setResults r).turn = s.turn := rfl
@[simp] theorem State.setResults_tick (s : State) (r : Results) : (s.setResults r).tick = s.tick := rfl
@[simp] theorem State.setResults_byte (s : State) (r : Results) (k : Nat) : (s.setResults r).byte? k = s.byte? k := rfl
/-! ### setBuffer -/
@[simp] theorem State.setBuffer_phase (s : State) (m : Memory) : (s.setBuffer m).phase = s.phase := rfl
@[simp] theorem State.setBuffer_len (s : State) (m : Memory) : (s.setBuffer m).len = s.len := rfl
@[simp] theorem State.setBuffer_tsIn (s : State) (m : Memory) : (s.setBuffer m).tsIn = s.tsIn := rfl
@[simp] theorem State.setBuffer_lenL (s : State) (m : Memory) : (s.setBuffer m).lenL = s.lenL := rfl
@[simp] theorem State.setBuffer_tsL (s : State) (m : Memory) : (s.setBuffer m).tsL = s.tsL := rfl
@[simp] theorem State.setBuffer_results (s : State) (m : Memory) : (s.setBuffer m).results = s.results := rfl
@[simp] theorem State.setBuffer_buffer (s : State) (m : Memory) : (s.setBuffer m).buffer = m := rfl
@[simp] theorem State.setBuffer_hostFaults (s : State) (m : Memory) : (s.setBuffer m).hostFaults = s.hostFaults := rfl
@[simp] theorem State.setBuffer_hostQueue (s : State) (m : Memory) : (s.setBuffer m).hostQueue = s.hostQueue := rfl
@[simp] theorem State.setBuffer_hostReads (s : State) (m : Memory) : (s.setBuffer m).hostReads = s.hostReads := rfl
@[simp] theorem State.setBuffer_lines (s : State) (m : Memory) : (s.setBuffer m).lines = s.lines := rfl
@[simp] theorem State.setBuffer_turn (s : State) (m : Memory) : (s.setBuffer m).turn = s.turn := rfl
@[simp] theorem State.setBuffer_tick (s : State) (m : Memory) : (s.setBuffer m).tick = s.tick := rfl
/-! ### recordFault -/
@[simp] theorem State.recordFault_phase (s : State) (f : HostFault) : (s.recordFault f).phase = s.phase := rfl
@[simp] theorem State.recordFault_len (s : State) (f : HostFault) : (s.recordFault f).len = s.len := rfl
@[simp] theorem State.recordFault_tsIn (s : State) (f : HostFault) : (s.recordFault f).tsIn = s.tsIn := rfl
@[simp] theorem State.recordFault_lenL (s : State) (f : HostFault) : (s.recordFault f).lenL = s.lenL := rfl
@[simp] theorem State.recordFault_tsL (s : State) (f : HostFault) : (s.recordFault f).tsL = s.tsL := rfl
@[simp] theorem State.recordFault_results (s : State) (f : HostFault) : (s.recordFault f).results = s.results := rfl
@[simp] theorem State.recordFault_buffer (s : State) (f : HostFault) : (s.recordFault f).buffer = s.buffer := rfl
@[simp] theorem State.recordFault_hostFaults (s : State) (f : HostFault) : (s.recordFault f).hostFaults = s.hostFaults.record f := rfl
@[simp] theorem State.recordFault_hostQueue (s : State) (f : HostFault) : (s.recordFault f).hostQueue = s.hostQueue := rfl
@[simp] theorem State.recordFault_hostReads (s : State) (f : HostFault) : (s.recordFault f).hostReads = s.hostReads := rfl
@[simp] theorem State.recordFault_lines (s : State) (f : HostFault) : (s.recordFault f).lines = s.lines := rfl
@[simp] theorem State.recordFault_turn (s : State) (f : HostFault) : (s.recordFault f).turn = s.turn := rfl
@[simp] theorem State.recordFault_tick (s : State) (f : HostFault) : (s.recordFault f).tick = s.tick := rfl
@[simp] theorem State.recordFault_byte (s : State) (f : HostFault) (k : Nat) : (s.recordFault f).byte? k = s.byte? k := rfl
/-! ### retire -/
@[simp] theorem State.retire_phase (s : State) : (s.retire).phase = s.phase := rfl
@[simp] theorem State.retire_len (s : State) : (s.retire).len = s.len := rfl
@[simp] theorem State.retire_tsIn (s : State) : (s.retire).tsIn = s.tsIn := rfl
@[simp] theorem State.retire_lenL (s : State) : (s.retire).lenL = s.lenL := rfl
@[simp] theorem State.retire_tsL (s : State) : (s.retire).tsL = s.tsL := rfl
@[simp] theorem State.retire_results (s : State) : (s.retire).results = s.results := rfl
@[simp] theorem State.retire_buffer (s : State) : (s.retire).buffer = s.buffer := rfl
@[simp] theorem State.retire_hostFaults (s : State) : (s.retire).hostFaults = s.hostFaults := rfl
@[simp] theorem State.retire_hostQueue (s : State) : (s.retire).hostQueue = s.hostQueue.tail := rfl
@[simp] theorem State.retire_hostReads (s : State) : (s.retire).hostReads = s.hostReads := rfl
@[simp] theorem State.retire_lines (s : State) : (s.retire).lines = s.lines := rfl
@[simp] theorem State.retire_turn (s : State) : (s.retire).turn = s.turn := rfl
@[simp] theorem State.retire_tick (s : State) : (s.retire).tick = s.tick := rfl
@[simp] theorem State.retire_byte (s : State) (k : Nat) : (s.retire).byte? k = s.byte? k := rfl
/-! ### returnRead -/
@[simp] theorem State.returnRead_phase (s : State) (v : Word) : (s.returnRead v).phase = s.phase := rfl
@[simp] theorem State.returnRead_len (s : State) (v : Word) : (s.returnRead v).len = s.len := rfl
@[simp] theorem State.returnRead_tsIn (s : State) (v : Word) : (s.returnRead v).tsIn = s.tsIn := rfl
@[simp] theorem State.returnRead_lenL (s : State) (v : Word) : (s.returnRead v).lenL = s.lenL := rfl
@[simp] theorem State.returnRead_tsL (s : State) (v : Word) : (s.returnRead v).tsL = s.tsL := rfl
@[simp] theorem State.returnRead_results (s : State) (v : Word) : (s.returnRead v).results = s.results := rfl
@[simp] theorem State.returnRead_buffer (s : State) (v : Word) : (s.returnRead v).buffer = s.buffer := rfl
@[simp] theorem State.returnRead_hostFaults (s : State) (v : Word) : (s.returnRead v).hostFaults = s.hostFaults := rfl
@[simp] theorem State.returnRead_hostQueue (s : State) (v : Word) : (s.returnRead v).hostQueue = s.hostQueue := rfl
@[simp] theorem State.returnRead_hostReads (s : State) (v : Word) : (s.returnRead v).hostReads = s.hostReads ++ [v] := rfl
@[simp] theorem State.returnRead_lines (s : State) (v : Word) : (s.returnRead v).lines = s.lines := rfl
@[simp] theorem State.returnRead_turn (s : State) (v : Word) : (s.returnRead v).turn = s.turn := rfl
@[simp] theorem State.returnRead_tick (s : State) (v : Word) : (s.returnRead v).tick = s.tick := rfl
@[simp] theorem State.returnRead_byte (s : State) (v : Word) (k : Nat) : (s.returnRead v).byte? k = s.byte? k := rfl
/-! ### writeLine -/
@[simp] theorem State.writeLine_phase (s : State) (ts : List String) : (s.writeLine ts).phase = s.phase := rfl
@[simp] theorem State.writeLine_len (s : State) (ts : List String) : (s.writeLine ts).len = s.len := rfl
@[simp] theorem State.writeLine_tsIn (s : State) (ts : List String) : (s.writeLine ts).tsIn = s.tsIn := rfl
@[simp] theorem State.writeLine_lenL (s : State) (ts : List String) : (s.writeLine ts).lenL = s.lenL := rfl
@[simp] theorem State.writeLine_tsL (s : State) (ts : List String) : (s.writeLine ts).tsL = s.tsL := rfl
@[simp] theorem State.writeLine_results (s : State) (ts : List String) : (s.writeLine ts).results = s.results := rfl
@[simp] theorem State.writeLine_buffer (s : State) (ts : List String) : (s.writeLine ts).buffer = s.buffer := rfl
@[simp] theorem State.writeLine_hostFaults (s : State) (ts : List String) : (s.writeLine ts).hostFaults = s.hostFaults := rfl
@[simp] theorem State.writeLine_hostQueue (s : State) (ts : List String) : (s.writeLine ts).hostQueue = s.hostQueue := rfl
@[simp] theorem State.writeLine_hostReads (s : State) (ts : List String) : (s.writeLine ts).hostReads = s.hostReads := rfl
@[simp] theorem State.writeLine_lines (s : State) (ts : List String) : (s.writeLine ts).lines = s.lines ++ [ts] := rfl
@[simp] theorem State.writeLine_turn (s : State) (ts : List String) : (s.writeLine ts).turn = s.turn := rfl
@[simp] theorem State.writeLine_tick (s : State) (ts : List String) : (s.writeLine ts).tick = s.tick := rfl
@[simp] theorem State.writeLine_byte (s : State) (ts : List String) (k : Nat) : (s.writeLine ts).byte? k = s.byte? k := rfl
/-! ### drawTurn -/
@[simp] theorem State.drawTurn_phase (s : State) : (s.drawTurn).phase = s.phase := rfl
@[simp] theorem State.drawTurn_len (s : State) : (s.drawTurn).len = s.len := rfl
@[simp] theorem State.drawTurn_tsIn (s : State) : (s.drawTurn).tsIn = s.tsIn := rfl
@[simp] theorem State.drawTurn_lenL (s : State) : (s.drawTurn).lenL = s.lenL := rfl
@[simp] theorem State.drawTurn_tsL (s : State) : (s.drawTurn).tsL = s.tsL := rfl
@[simp] theorem State.drawTurn_results (s : State) : (s.drawTurn).results = s.results := rfl
@[simp] theorem State.drawTurn_buffer (s : State) : (s.drawTurn).buffer = s.buffer := rfl
@[simp] theorem State.drawTurn_hostFaults (s : State) : (s.drawTurn).hostFaults = s.hostFaults := rfl
@[simp] theorem State.drawTurn_hostQueue (s : State) : (s.drawTurn).hostQueue = s.hostQueue := rfl
@[simp] theorem State.drawTurn_hostReads (s : State) : (s.drawTurn).hostReads = s.hostReads := rfl
@[simp] theorem State.drawTurn_lines (s : State) : (s.drawTurn).lines = s.lines := rfl
@[simp] theorem State.drawTurn_turn (s : State) : (s.drawTurn).turn = Config.nextMover s.tick := rfl
@[simp] theorem State.drawTurn_tick (s : State) : (s.drawTurn).tick = s.tick + 1 := rfl
@[simp] theorem State.drawTurn_byte (s : State) (k : Nat) : (s.drawTurn).byte? k = s.byte? k := rfl
/-! ### assertReset -/
@[simp] theorem State.assertReset_phase (s : State) : (s.assertReset).phase = .idle := rfl
@[simp] theorem State.assertReset_len (s : State) : (s.assertReset).len = 0 := rfl
@[simp] theorem State.assertReset_tsIn (s : State) : (s.assertReset).tsIn = 0 := rfl
@[simp] theorem State.assertReset_lenL (s : State) : (s.assertReset).lenL = 0 := rfl
@[simp] theorem State.assertReset_tsL (s : State) : (s.assertReset).tsL = 0 := rfl
@[simp] theorem State.assertReset_results (s : State) : (s.assertReset).results = Results.zero := rfl
@[simp] theorem State.assertReset_buffer (s : State) : (s.assertReset).buffer = [] := rfl
@[simp] theorem State.assertReset_hostFaults (s : State) : (s.assertReset).hostFaults = s.hostFaults := rfl
@[simp] theorem State.assertReset_hostQueue (s : State) : (s.assertReset).hostQueue = s.hostQueue := rfl
@[simp] theorem State.assertReset_hostReads (s : State) : (s.assertReset).hostReads = s.hostReads := rfl
@[simp] theorem State.assertReset_lines (s : State) : (s.assertReset).lines = s.lines := rfl
@[simp] theorem State.assertReset_turn (s : State) : (s.assertReset).turn = s.turn := rfl
@[simp] theorem State.assertReset_tick (s : State) : (s.assertReset).tick = s.tick := rfl
/-! ### commitErr -/
@[simp] theorem State.commitErr_phase (s : State) (e : ErrCode) : (s.commitErr e).phase = .done := rfl
@[simp] theorem State.commitErr_len (s : State) (e : ErrCode) : (s.commitErr e).len = s.len := rfl
@[simp] theorem State.commitErr_tsIn (s : State) (e : ErrCode) : (s.commitErr e).tsIn = s.tsIn := rfl
@[simp] theorem State.commitErr_lenL (s : State) (e : ErrCode) : (s.commitErr e).lenL = s.lenL := rfl
@[simp] theorem State.commitErr_tsL (s : State) (e : ErrCode) : (s.commitErr e).tsL = s.tsL := rfl
@[simp] theorem State.commitErr_results (s : State) (e : ErrCode) : (s.commitErr e).results = Results.ofError e := rfl
@[simp] theorem State.commitErr_buffer (s : State) (e : ErrCode) : (s.commitErr e).buffer = s.buffer := rfl
@[simp] theorem State.commitErr_hostFaults (s : State) (e : ErrCode) : (s.commitErr e).hostFaults = s.hostFaults := rfl
@[simp] theorem State.commitErr_hostQueue (s : State) (e : ErrCode) : (s.commitErr e).hostQueue = s.hostQueue := rfl
@[simp] theorem State.commitErr_hostReads (s : State) (e : ErrCode) : (s.commitErr e).hostReads = s.hostReads := rfl
@[simp] theorem State.commitErr_lines (s : State) (e : ErrCode) : (s.commitErr e).lines = s.lines := rfl
@[simp] theorem State.commitErr_turn (s : State) (e : ErrCode) : (s.commitErr e).turn = s.turn := rfl
@[simp] theorem State.commitErr_tick (s : State) (e : ErrCode) : (s.commitErr e).tick = s.tick := rfl
@[simp] theorem State.commitErr_byte (s : State) (e : ErrCode) (k : Nat) : (s.commitErr e).byte? k = s.byte? k := rfl
/-! ### commitOk -/
@[simp] theorem State.commitOk_phase (s : State) (ip : IpHeader) (tr : Transport) : (s.commitOk ip tr).phase = .done := rfl
@[simp] theorem State.commitOk_len (s : State) (ip : IpHeader) (tr : Transport) : (s.commitOk ip tr).len = s.len := rfl
@[simp] theorem State.commitOk_tsIn (s : State) (ip : IpHeader) (tr : Transport) : (s.commitOk ip tr).tsIn = s.tsIn := rfl
@[simp] theorem State.commitOk_lenL (s : State) (ip : IpHeader) (tr : Transport) : (s.commitOk ip tr).lenL = s.lenL := rfl
@[simp] theorem State.commitOk_tsL (s : State) (ip : IpHeader) (tr : Transport) : (s.commitOk ip tr).tsL = s.tsL := rfl
@[simp] theorem State.commitOk_results (s : State) (ip : IpHeader) (tr : Transport) : (s.commitOk ip tr).results = Results.ofPacket ip tr s.tsL := rfl
@[simp] theorem State.commitOk_buffer (s : State) (ip : IpHeader) (tr : Transport) : (s.commitOk ip tr).buffer = s.buffer := rfl
@[simp] theorem State.commitOk_hostFaults (s : State) (ip : IpHeader) (tr : Transport) : (s.commitOk ip tr).hostFaults = s.hostFaults := rfl
@[simp] theorem State.commitOk_hostQueue (s : State) (ip : IpHeader) (tr : Transport) : (s.commitOk ip tr).hostQueue = s.hostQueue := rfl
@[simp] theorem State.commitOk_hostReads (s : State) (ip : IpHeader) (tr : Transport) : (s.commitOk ip tr).hostReads = s.hostReads := rfl
@[simp] theorem State.commitOk_lines (s : State) (ip : IpHeader) (tr : Transport) : (s.commitOk ip tr).lines = s.lines := rfl
@[simp] theorem State.commitOk_turn (s : State) (ip : IpHeader) (tr : Transport) : (s.commitOk ip tr).turn = s.turn := rfl
@[simp] theorem State.commitOk_tick (s : State) (ip : IpHeader) (tr : Transport) : (s.commitOk ip tr).tick = s.tick := rfl
@[simp] theorem State.commitOk_byte (s : State) (ip : IpHeader) (tr : Transport) (k : Nat) : (s.commitOk ip tr).byte? k = s.byte? k := rfl
/-! ### completeUnwritten -/
@[simp] theorem State.completeUnwritten_phase (s : State) : (s.completeUnwritten).phase = .done := rfl
@[simp] theorem State.completeUnwritten_len (s : State) : (s.completeUnwritten).len = s.len := rfl
@[simp] theorem State.completeUnwritten_tsIn (s : State) : (s.completeUnwritten).tsIn = s.tsIn := rfl
@[simp] theorem State.completeUnwritten_lenL (s : State) : (s.completeUnwritten).lenL = s.lenL := rfl
@[simp] theorem State.completeUnwritten_tsL (s : State) : (s.completeUnwritten).tsL = s.tsL := rfl
@[simp] theorem State.completeUnwritten_results (s : State) : (s.completeUnwritten).results = s.results := rfl
@[simp] theorem State.completeUnwritten_buffer (s : State) : (s.completeUnwritten).buffer = s.buffer := rfl
@[simp] theorem State.completeUnwritten_hostFaults (s : State) : (s.completeUnwritten).hostFaults = s.hostFaults.record .unwrittenByte := rfl
@[simp] theorem State.completeUnwritten_hostQueue (s : State) : (s.completeUnwritten).hostQueue = s.hostQueue := rfl
@[simp] theorem State.completeUnwritten_hostReads (s : State) : (s.completeUnwritten).hostReads = s.hostReads := rfl
@[simp] theorem State.completeUnwritten_lines (s : State) : (s.completeUnwritten).lines = s.lines := rfl
@[simp] theorem State.completeUnwritten_turn (s : State) : (s.completeUnwritten).turn = s.turn := rfl
@[simp] theorem State.completeUnwritten_tick (s : State) : (s.completeUnwritten).tick = s.tick := rfl
@[simp] theorem State.completeUnwritten_byte (s : State) (k : Nat) : (s.completeUnwritten).byte? k = s.byte? k := rfl

end Sys2Proof.Machine
end

