-- ==== Sys2Proof/Laws/HostPrograms.lean ====
section
/-! SUPPORT. What the events of the host programs do: each WBUF of a LOAD writes its own address, and the capture loop's length
is the packet's. -/

namespace Sys2Proof.Machine

/-- The host's step at the WBUF of any address and byte is the write of that byte at that address: no address wraps (R87,
R172; log 23). -/
theorem hostStep_wbufEvent {s : State} {a : Nat} {d : Byte} {rest : List HostEvent}
    (h : s.hostQueue = wbufEvent a d :: rest) : hostStep s = .next (s.hostWriteByte a d).retire := by
  unfold hostStep
  rw [h]
  by_cases ha : a < 2 ^ 24
  · have hd : decodeHostWord (encodeHost 0x01#8 (BitVec.ofNat 24 a) (0#24 ++ d)) = .ok (.wbuf (BitVec.ofNat 24 a) d) := by
      simp [decodeHostWord, hostOp_encodeHost, hostArg_encodeHost, hostData_encodeHost, data_high, data_low]
    simp only [wbufEvent, if_pos ha, hd, exec, execWbuf, BitVec.toNat_ofNat, Nat.mod_eq_of_lt ha]
  · simp only [wbufEvent, if_neg ha]

/-- A packet whose length LEN can hold has that length written (R182; log 27). -/
theorem lengthWord_toNat {packet : List Byte} (h : packet.length < 2 ^ 32) :
    (lengthWord packet).toNat = packet.length := by
  rw [lengthWord, BitVec.toNat_ofNat]
  omega

end Sys2Proof.Machine
end

