-- ==== Sys2Proof/Laws/Memory.lean ====
section
/-! SUPPORT. The laws of the packet buffer: read after write, and that every operation keeps the canonical form. -/

namespace Sys2Proof.Machine

theorem Memory.read_write_same (m : Memory) (a : Nat) (v : Byte) : (m.write a v).read? a = some v := by
  induction m with
  | nil => simp [Memory.write, Memory.read?]
  | cons cell rest ih =>
    obtain ⟨k, w⟩ := cell
    simp only [Memory.write]
    split
    · simp [Memory.read?]
    · split
      · simp [Memory.read?]
      · rename_i h
        simpa [Memory.read?, h] using ih

theorem Memory.read_write_other (m : Memory) {a b : Nat} (v : Byte) (h : b ≠ a) :
    (m.write a v).read? b = m.read? b := by
  induction m with
  | nil => simp [Memory.write, Memory.read?, h]
  | cons cell rest ih =>
    obtain ⟨k, w⟩ := cell
    simp only [Memory.write]
    split
    · simp [Memory.read?, h]
    · split
      · rename_i hk
        subst hk
        simp [Memory.read?, h]
      · simp [Memory.read?, ih]

theorem Memory.risesAbove_write (m : Memory) (k a : Nat) (v : Byte) (hm : Memory.risesAbove k m = true)
    (h : k < a) : Memory.risesAbove k (m.write a v) = true := by
  induction m generalizing k with
  | nil => simp [Memory.write, Memory.risesAbove, h]
  | cons cell rest ih =>
    obtain ⟨b, w⟩ := cell
    simp only [Memory.risesAbove, Bool.and_eq_true, decide_eq_true_eq] at hm
    simp only [Memory.write]
    split
    · rename_i hab
      simp [Memory.risesAbove, h, hab, hm.2]
    · split
      · rename_i hab
        subst hab
        simp [Memory.risesAbove, h, hm.2]
      · rename_i h1 h2
        simp [Memory.risesAbove, hm.1, ih b hm.2 (by omega)]

/-- A write keeps the canonical form. -/
theorem Memory.wf_write (m : Memory) (a : Nat) (v : Byte) (hm : m.wf = true) : (m.write a v).wf = true := by
  cases m with
  | nil => rfl
  | cons cell rest =>
    obtain ⟨b, w⟩ := cell
    simp only [Memory.wf] at hm
    simp only [Memory.write]
    split
    · rename_i hab
      simp [Memory.wf, Memory.risesAbove, hab, hm]
    · split
      · rename_i hab
        subst hab
        simpa [Memory.wf] using hm
      · simp only [Memory.wf]
        exact Memory.risesAbove_write rest b a v hm (by omega)

/-- A write below a bound keeps every listed address below it. -/
theorem Memory.below_write (m : Memory) (n a : Nat) (v : Byte) (hm : m.below n = true) (ha : a < n) :
    (m.write a v).below n = true := by
  induction m with
  | nil => simp [Memory.write, Memory.below, ha]
  | cons cell rest ih =>
    obtain ⟨b, w⟩ := cell
    have hb : b < n ∧ Memory.below rest n = true := by simpa [Memory.below] using hm
    simp only [Memory.write]
    split
    · simp [Memory.below] at hb ⊢
      exact ⟨ha, hb⟩
    · split
      · simp [Memory.below] at hb ⊢
        exact ⟨ha, hb.2⟩
      · have := ih hb.2
        simp [Memory.below] at hb this ⊢
        exact ⟨hb.1, this⟩

/-- Only listed addresses read as written. -/
theorem Memory.read_below (m : Memory) (n a : Nat) (v : Byte) (hm : m.below n = true) (h : m.read? a = some v) :
    a < n := by
  induction m with
  | nil => simp [Memory.read?] at h
  | cons cell rest ih =>
    obtain ⟨b, w⟩ := cell
    have hb : b < n ∧ Memory.below rest n = true := by simpa [Memory.below] using hm
    simp only [Memory.read?] at h
    split at h
    · omega
    · exact ih hb.2 h

/-- The reset buffer has the canonical form. -/
theorem reset_buffer_wf : State.reset.buffer.wf = true := rfl

end Sys2Proof.Machine
end

