-- ==== Sys2Proof/Laws/Ops.lean ====
section
/-! SUPPORT. One lemma for each shared operation that says everything it can do; proofs cite these and do not unfold the
operations. -/

namespace Sys2Proof.Machine

/-! ### The host-fault record -/

/-- Recording adds one reason and takes none out. -/
theorem FaultRecord.has_record (f : FaultRecord) (r q : HostFault) :
    (f.record r).has q = (f.has q || decide (q = r)) := by
  cases r <;> cases q <;> simp [FaultRecord.record, FaultRecord.has]

theorem FaultRecord.has_empty (q : HostFault) : FaultRecord.empty.has q = false := by
  cases q <;> rfl

/-! ### Host writes -/

/-- WBUF either records one of its two faults or stores the byte. -/
theorem State.hostWriteByte_cases (s : State) (a : Nat) (v : Byte) :
    (Config.bufLenMax ≤ a ∧ s.hostWriteByte a v = s.recordFault .bufOutOfRange) ∨
    (a < Config.bufLenMax ∧ s.phase = .busy ∧ s.hostWriteByte a v = s.recordFault .bufWriteWhileBusy) ∨
    (a < Config.bufLenMax ∧ s.phase ≠ .busy ∧ s.hostWriteByte a v = s.setBuffer (s.buffer.write a v)) := by
  unfold State.hostWriteByte
  by_cases ha : Config.bufLenMax ≤ a
  · exact .inl ⟨ha, if_pos ha⟩
  · by_cases hb : s.phase = .busy
    · exact .inr (.inl ⟨by omega, hb, by simp [ha, hb]⟩)
    · exact .inr (.inr ⟨by omega, hb, by simp [ha, hb]⟩)

/-- WREG LEN either records LenTooLarge or stores a legal length. -/
theorem State.hostWriteLen_cases (s : State) (v : Word) :
    (Config.bufLenMax < v.toNat ∧ s.hostWriteLen v = s.recordFault .lenTooLarge) ∨
    (v.toNat ≤ Config.bufLenMax ∧ s.hostWriteLen v = s.setLen v) := by
  unfold State.hostWriteLen
  by_cases h : Config.bufLenMax < v.toNat
  · exact .inl ⟨h, if_pos h⟩
  · exact .inr ⟨by omega, if_neg h⟩

/-- START either records StartWhileBusy or latches and becomes BUSY. -/
theorem State.startDecode_cases (s : State) :
    (s.phase = .busy ∧ s.startDecode = s.recordFault .startWhileBusy) ∨
    (s.phase ≠ .busy ∧ s.startDecode = s.latchInputs.setPhase .busy) := by
  unfold State.startDecode
  by_cases h : s.phase = .busy
  · exact .inl ⟨h, if_pos h⟩
  · exact .inr ⟨h, if_neg h⟩

/-- A CMD write is a fault, a START, or nothing. -/
theorem State.hostWriteCmd_cases (s : State) (v : Word) :
    (cmdReservedBits v ≠ 0#31 ∧ s.hostWriteCmd v = s.recordFault .reservedCmdBits) ∨
    (cmdReservedBits v = 0#31 ∧ v.getLsbD 0 = true ∧ s.hostWriteCmd v = s.startDecode) ∨
    (cmdReservedBits v = 0#31 ∧ v.getLsbD 0 = false ∧ s.hostWriteCmd v = s) := by
  unfold State.hostWriteCmd
  by_cases h : cmdReservedBits v ≠ 0#31
  · exact .inl ⟨h, if_pos h⟩
  · have h' : cmdReservedBits v = 0#31 := by simpa using h
    cases hb : v.getLsbD 0
    · exact .inr (.inr ⟨h', rfl, by simp [h']⟩)
    · exact .inr (.inl ⟨h', rfl, by simp [h']⟩)

/-- The numbers that name a register. -/
theorem regOf_none {n : Nat} : regOf n = none ↔ 34 ≤ n := by
  simp [regOf, regTable]

/-- Every register number from 3 to 33 names a register that is neither CMD, LEN nor TS_IN. -/
theorem regOf_readOnly {n : Nat} (h3 : 3 ≤ n) (h33 : n ≤ 33) :
    ∃ r, regOf n = some r ∧ r ≠ .cmd ∧ r ≠ .len ∧ r ≠ .tsIn := by
  interval_cases n <;> exact ⟨_, rfl, by decide, by decide, by decide⟩

/-- The register numbers 4 to 33 are the result registers (R42). -/
theorem regOf_result {n : Nat} {r : Reg} (h : regOf n = some r) : isResultReg r = true ↔ 4 ≤ n := by
  have hn : n < 34 := by
    by_contra hc
    rw [regOf_none.2 (by omega)] at h
    cases h
  interval_cases n <;> (cases h; decide)

/-- WREG by register number (R173 to R177). -/
theorem State.hostWriteReg_cases (s : State) (n : Nat) (v : Word) :
    (34 ≤ n ∧ s.hostWriteReg n v = s.recordFault .badRegister) ∨
    (3 ≤ n ∧ n ≤ 33 ∧ s.hostWriteReg n v = s.recordFault .readOnly) ∨
    (n = 0 ∧ s.hostWriteReg n v = s.hostWriteCmd v) ∨
    (n = 1 ∧ s.hostWriteReg n v = s.hostWriteLen v) ∨
    (n = 2 ∧ s.hostWriteReg n v = s.setTsIn v) := by
  by_cases h34 : 34 ≤ n
  · exact .inl ⟨h34, by simp [State.hostWriteReg, regOf_none.2 h34]⟩
  · by_cases h3 : 3 ≤ n
    · obtain ⟨r, hr, hc, hl, ht⟩ := regOf_readOnly h3 (by omega)
      refine .inr (.inl ⟨h3, by omega, ?_⟩)
      unfold State.hostWriteReg
      rw [hr]
      cases r <;> simp_all
    · have : n = 0 ∨ n = 1 ∨ n = 2 := by omega
      obtain rfl | rfl | rfl := this
      · exact .inr (.inr (.inl ⟨rfl, rfl⟩))
      · exact .inr (.inr (.inr (.inl ⟨rfl, rfl⟩)))
      · exact .inr (.inr (.inr (.inr ⟨rfl, rfl⟩)))

/-- RREG by register number (R178). -/
theorem State.hostReadReg_cases (s : State) (n : Nat) :
    (34 ≤ n ∧ s.hostReadReg n = s.recordFault .badRegister) ∨
    (4 ≤ n ∧ n ≤ 33 ∧ s.phase = .busy ∧ s.hostReadReg n = s.recordFault .readWhileBusy) ∨
    (∃ r, regOf n = some r ∧ (4 ≤ n → s.phase ≠ .busy) ∧ s.hostReadReg n = s.returnRead (s.readReg r)) := by
  by_cases h34 : 34 ≤ n
  · exact .inl ⟨h34, by simp [State.hostReadReg, regOf_none.2 h34]⟩
  · cases hr : regOf n with
    | none => exact absurd (regOf_none.1 hr) h34
    | some r =>
      have hres := regOf_result hr
      by_cases h : isResultReg r = true ∧ s.phase = .busy
      · exact .inr (.inl ⟨hres.1 h.1, by omega, h.2, by simp [State.hostReadReg, hr, h]⟩)
      · refine .inr (.inr ⟨r, rfl, fun h4 hb => h ⟨hres.2 h4, hb⟩, ?_⟩)
        simp [State.hostReadReg, hr, if_neg h]

/-! ### Buffer reads -/

theorem State.byteAt_of_byte {s : State} {a : Nat} {v : Byte} (h : s.byte? a = some v) : s.byteAt a = v := by
  simp [State.byteAt, h]

theorem State.allWritten_iff (s : State) (reads : List Nat) :
    s.allWritten reads = true ↔ ∀ a ∈ reads, ∃ v, s.byte? a = some v := by
  simp [State.allWritten, Option.isSome_iff_exists]

theorem mem_headerReads {a : Nat} : a ∈ headerReads ↔ a < 20 := by
  simp [headerReads]

theorem mem_transportReads {a t n : Nat} : a ∈ transportReads t n ↔ t ≤ a ∧ a < t + n := by
  simp [transportReads, List.mem_range'_1]

/-! ### COMPLETE -/

/-- COMPLETE either takes the path's commit or records UnwrittenByte. -/
theorem State.completeWith_cases (s : State) (reads : List Nat) (commit : State) :
    (s.allWritten reads = true ∧ s.completeWith reads commit = commit) ∨
    (s.allWritten reads = false ∧ s.completeWith reads commit = s.completeUnwritten) := by
  unfold State.completeWith
  cases h : s.allWritten reads
  · exact .inr ⟨rfl, by simp⟩
  · exact .inl ⟨rfl, by simp⟩

/-- A path executes only where COMPLETE is enabled and selects it. -/
theorem State.onPath_next {s t after : State} {i : Instr} (h : s.onPath i after = .next t) :
    s.phase = .busy ∧ s.pathTaken = some i ∧ t = after := by
  unfold State.onPath at h
  split at h
  · rename_i hp
    cases h
    exact ⟨hp.1, hp.2, rfl⟩
  · cases h

theorem State.onPath_taken {s : State} {i : Instr} (after : State) (hb : s.phase = .busy)
    (hp : s.pathTaken = some i) : s.onPath i after = .next after := if_pos ⟨hb, hp⟩

/-! ### The capture loop's output step -/

/-- The output step records a fault, writes a line, or does nothing. -/
theorem State.emitLine_cases (s : State) (verbose : Bool) :
    (s.phase = .busy ∧ s.emitLine verbose = s.recordFault .readWhileBusy) ∨
    (s.phase = .done ∧ ∃ tokens, formatTokens s.results verbose = some tokens ∧
      s.emitLine verbose = s.writeLine tokens) ∨
    (s.phase ≠ .busy ∧ (s.phase = .done → formatTokens s.results verbose = none) ∧ s.emitLine verbose = s) := by
  unfold State.emitLine
  cases hp : s.phase
  · exact .inr (.inr ⟨by simp, by simp, rfl⟩)
  · exact .inl ⟨rfl, rfl⟩
  · cases hf : formatTokens s.results verbose
    · exact .inr (.inr ⟨by simp, fun _ => rfl, rfl⟩)
    · exact .inr (.inl ⟨rfl, _, rfl, rfl⟩)

/-! ### The agents -/

theorem afterMove_next {o : Host.Outcome State Fault Refusal} {t : State} (h : afterMove o = .next t) :
    ∃ u, o = .next u ∧ t = u.drawTurn := by
  cases o with
  | next u => exact ⟨u, rfl, by simpa [afterMove] using h.symm⟩
  | fault r => simp [afterMove] at h
  | refused r => simp [afterMove] at h

/-- The block moves only while PHASE = BUSY (R180). -/
theorem State.mover_block {s : State} (h : s.mover = .block) : s.phase = .busy := by
  cases hp : s.phase <;> simp_all [State.mover]

end Sys2Proof.Machine
end

