-- ==== Sys2Proof/Laws/Steps.lean ====
section
/-! SUPPORT. What a host step can do, how commands decode, and what the whole decode can answer: one inversion lemma each, so
that proofs about steps split no match of the model. -/

namespace Sys2Proof.Machine

/-! ### Host words and commands -/

/-- A host word spells one of the four operations (R86). -/
theorem decodeHostWord_ok {w : HostWord} {i : Instr} (h : decodeHostWord w = .ok i) :
    (∃ a d, i = .wbuf a d) ∨ (∃ r v, i = .wreg r v) ∨ (∃ r, i = .rreg r) ∨ i = .wait := by
  unfold decodeHostWord at h
  split at h
  · split at h
    · cases h
      exact .inl ⟨_, _, rfl⟩
    · cases h
  · split at h
    · cases h
      exact .inr (.inl ⟨_, _, rfl⟩)
    · split at h
      · split at h
        · cases h
          exact .inr (.inr (.inl ⟨_, rfl⟩))
        · cases h
      · split at h
        · split at h
          · cases h
            exact .inr (.inr (.inr rfl))
          · cases h
        · cases h

/-- A CMD value with no reserved bit set is 1 or 0, by its bit 0 (R85). -/
theorem cmd_values {v : Word} (h : cmdReservedBits v = 0#31) : v = if v.getLsbD 0 then 1#32 else 0#32 := by
  have high : ∀ k, 1 ≤ k → k < 32 → v.getLsbD k = false := by
    intro k h1 h2
    have := congrArg (fun x => x.getLsbD (k - 1)) h
    simp only [cmdReservedBits, BitVec.getLsbD_extractLsb'] at this
    simpa [show k - 1 < 31 by omega, show 1 + (k - 1) = k by omega] using this
  apply BitVec.eq_of_getLsbD_eq
  intro k hk
  by_cases h0 : k = 0
  · subst h0
    cases v.getLsbD 0 <;> simp
  · rw [high k (by omega) hk]
    cases v.getLsbD 0 <;> simp [h0]

/-- Whatever command a CMD value spells, its meaning is the write of that value to CMD (R85). -/
theorem exec_decodeCmd (s : State) (v : Word) : exec (decodeCmd v) s = .next (s.hostWriteCmd v).retire := by
  unfold decodeCmd
  by_cases h : cmdReservedBits v ≠ 0#31
  · simp only [if_pos h, exec, execCmdReserved, if_neg h]
  · simp only [if_neg h]
    cases hb : v.getLsbD 0
    · simp only [exec, execCmdNop, State.hostWriteCmd, hb, if_neg h]
      rfl
    · simp only [exec, execStart, State.hostWriteCmd, hb, if_neg h]
      rfl

/-! ### The host's step -/

/-- Everything a step of the host can do, by the event it is at. -/
theorem hostStep_next {s t : State} (h : hostStep s = .next t) :
    (s.hostQueue = [] ∧ t = s) ∨
    (∃ w rest a d, s.hostQueue = .word w :: rest ∧ decodeHostWord w = .ok (.wbuf a d) ∧
      t = (s.hostWriteByte a.toNat d).retire) ∨
    (∃ w rest r v, s.hostQueue = .word w :: rest ∧ decodeHostWord w = .ok (.wreg r v) ∧
      t = (s.hostWriteReg r.toNat v).retire) ∨
    (∃ w rest r, s.hostQueue = .word w :: rest ∧ decodeHostWord w = .ok (.rreg r) ∧
      t = (s.hostReadReg r.toNat).retire) ∨
    (∃ w rest, s.hostQueue = .word w :: rest ∧ decodeHostWord w = .ok .wait ∧
      (s.phase = .done ∧ t = s.retire ∨ s.phase ≠ .done ∧ t = s)) ∨
    (∃ rest v, s.hostQueue = .cmd v :: rest ∧ t = (s.hostWriteCmd v).retire) ∨
    (∃ rest a d, s.hostQueue = .byteWrite a d :: rest ∧ t = (s.hostWriteByte a d).retire) ∨
    (∃ rest, s.hostQueue = .reset :: rest ∧ t = s.assertReset.retire) ∨
    (∃ rest verbose, s.hostQueue = .emit verbose :: rest ∧ t = (s.emitLine verbose).retire) := by
  unfold hostStep at h
  cases hq : s.hostQueue with
  | nil =>
    rw [hq] at h
    cases h
    exact .inl ⟨rfl, rfl⟩
  | cons e rest =>
    rw [hq] at h
    cases e with
    | word w =>
      dsimp only at h
      cases hd : decodeHostWord w with
      | error why =>
        rw [hd] at h
        cases h
      | ok i =>
        rw [hd] at h
        dsimp only at h
        obtain ⟨a, d, rfl⟩ | ⟨r, v, rfl⟩ | ⟨r, rfl⟩ | rfl := decodeHostWord_ok hd
        · cases h
          exact .inr (.inl ⟨w, rest, a, d, rfl, hd, rfl⟩)
        · cases h
          exact .inr (.inr (.inl ⟨w, rest, r, v, rfl, hd, rfl⟩))
        · cases h
          exact .inr (.inr (.inr (.inl ⟨w, rest, r, rfl, hd, rfl⟩)))
        · simp only [exec, execWait] at h
          refine .inr (.inr (.inr (.inr (.inl ⟨w, rest, rfl, hd, ?_⟩))))
          split at h
          · cases h
            exact .inl ⟨‹_›, rfl⟩
          · cases h
            exact .inr ⟨‹_›, rfl⟩
    | cmd v =>
      dsimp only at h
      rw [exec_decodeCmd] at h
      cases h
      exact .inr (.inr (.inr (.inr (.inr (.inl ⟨rest, v, rfl, rfl⟩)))))
    | byteWrite a d =>
      cases h
      exact .inr (.inr (.inr (.inr (.inr (.inr (.inl ⟨rest, a, d, rfl, rfl⟩))))))
    | reset =>
      cases h
      exact .inr (.inr (.inr (.inr (.inr (.inr (.inr (.inl ⟨rest, rfl, rfl⟩)))))))
    | emit verbose =>
      cases h
      exact .inr (.inr (.inr (.inr (.inr (.inr (.inr (.inr ⟨rest, verbose, rfl, rfl⟩)))))))

/-! ### The whole decode -/

/-- A decode that does not succeed commits an error and nothing else. -/
theorem wholeDecode_error {B : Nat → Byte} {L : Nat} {T : Word} (h : (wholeDecode B L T).err ≠ .ok) :
    ∃ e, wholeDecode B L T = Results.ofError e := by
  unfold wholeDecode at h ⊢
  repeat' split
  all_goals first | exact ⟨_, rfl⟩ | skip
  all_goals
    exfalso
    apply h
    simp_all [Results.ofPacket]

/-! ### Runs -/

/-- A run of one step more is a run after that step. -/
theorem run_succ (M : Host.Core) (k : Nat) (s t : M.State) (h : M.step s = .next t) :
    M.run (k + 1) s = M.run k t := by
  rw [Host.Core.run, h]

end Sys2Proof.Machine
end

