-- ==== Sys2Proof/Tests/Slice0.lean ====
section
/-! SUPPORT. The model's own tests. Expected values come from the spec: its worked examples (95_test_vectors.md), its encodings
(30_encoding.md), or a hand calculation from a rule; each test's docstring names the source. -/

open Sys2Proof Sys2Proof.Machine Sys2Proof.Claims

namespace Sys2Proof.Tests

/-! ### Small states -/

/-- A buffer that holds these bytes from address 0. -/
def bytesAt (packet : List Byte) : Memory := packet.zipIdx.map fun cell => (cell.2, cell.1)

/-- A block decoding a packet of length `len` whose bytes were written before START. -/
def busy (len ts : Word) (packet : List Byte) : State :=
  { State.reset with phase := .busy, lenL := len, tsL := ts, buffer := bytesAt packet, turn := .block }

/-- A block whose host has one event to do. -/
def withEvent (s : State) (e : HostEvent) : State := { s with hostQueue := [e], turn := .host }

/-- What a buffer of these bytes holds at every address. -/
def bytesOf (packet : List Byte) (a : Nat) : Byte := packet.getD a 0#8

/-- The next state of an outcome, if it is one. -/
def nextOf (o : Host.Outcome State Fault Refusal) : Option State :=
  match o with
  | .next s => some s
  | .fault _ => none
  | .refused _ => none

/-- H0 of 95_test_vectors.md section 3, with byte 0, bytes 6 and 7 and the protocol as given. -/
def header (b0 b6 b7 proto : Byte) : List Byte :=
  [b0, 0x00, 0x00, 0x14, 0x00, 0x00, b6, b7, 0x40, proto, 0x00, 0x00, 0x0A, 0x00, 0x00, 0x01, 0x0A, 0x00, 0x00, 0x02]

/-- H0 itself: protocol 250. -/
def h0 : List Byte := header 0x45 0x00 0x00 0xFA

/-- T0 of 95_test_vectors.md section 3.2. -/
def t0 : List Byte :=
  [0x30, 0x39, 0x00, 0x50, 0x00, 0x00, 0x00, 0x00, 0x00, 0x00, 0x00, 0x00, 0x50, 0x02, 0x20, 0x00]

/-- The packet of program P1 (95_test_vectors.md section 6), example E4 of the source. -/
def p1 : List Byte :=
  [0x45, 0x00, 0x00, 0x28, 0x00, 0x01, 0x00, 0x00, 0x40, 0x06, 0x66, 0xCD, 0x0A, 0x00, 0x00, 0x01, 0x0A, 0x00, 0x00, 0x02] ++
  [0x30, 0x39, 0x00, 0x50, 0x00, 0x00, 0x00, 0x00, 0x00, 0x00, 0x00, 0x00, 0x50, 0x02, 0x20, 0x00, 0x00, 0x00, 0x00, 0x00]

/-- The packet of V-D7: UDP, ports 5353. -/
def udpPacket : List Byte := header 0x45 0x00 0x00 0x11 ++ [0x14, 0xE9, 0x14, 0xE9, 0x00, 0x08]

/-- The packet of V-D9: ICMP echo request. -/
def icmpPacket : List Byte := header 0x45 0x00 0x00 0x01 ++ [0x08, 0x00]

/-- P1's block while BUSY. -/
def tcpBusy : State := busy 40 45296789 p1

/-- V-D7's block while BUSY. -/
def udpBusy : State := busy 26 0 udpPacket

/-- V-D9's block while BUSY. -/
def icmpBusy : State := busy 22 0 icmpPacket

/-- V-H3's block while BUSY. -/
def otherBusy : State := busy 20 0 h0

/-- A block with a completed decode of V-H3's packet. -/
def otherDone : State := doneWith otherBusy (wholeDecode (bytesOf h0) 20 0)

/-! ### WellFormed: each check refuses a term (R83, R85) -/

theorem test_wf_version : Instr.wellFormed (.unsupportedVersion 4) = false := by decide
theorem test_wf_ihl03 : Instr.wellFormed (.malformedIhl03 4) = false := by decide
theorem test_wf_overlength : Instr.wellFormed (.malformedOverlength 4) = false := by decide
theorem test_wf_tcp : Instr.wellFormed (.decodeTcp 4) = false := by decide
theorem test_wf_udp : Instr.wellFormed (.decodeUdp 4) = false := by decide
theorem test_wf_icmp : Instr.wellFormed (.decodeIcmp 4) = false := by decide
theorem test_wf_other : Instr.wellFormed (.decodeOther 4 250) = false ∧ Instr.wellFormed (.decodeOther 5 1) = false ∧
    Instr.wellFormed (.decodeOther 5 6) = false ∧ Instr.wellFormed (.decodeOther 5 17) = false := by decide
theorem test_wf_reserved : Instr.wellFormed (.cmdReserved 1) = false ∧ Instr.wellFormed (.cmdReserved 0) = false := by
  decide

/-! ### Decoding: words written out from the encodings -/

/-- R83 line 1: any key, with LEN_L 0 and 19. -/
theorem test_decode_ipTruncated : decodeKey 0 0x4506#16 = .ipTruncated ∧ decodeKey 19 0x60FA#16 = .ipTruncated := by decide

/-- R83 line 2: versions 0 (V-H4a), 6 and 15 (V-H4e). -/
theorem test_decode_unsupportedVersion : decodeKey 60 0b0000_0101_11111010#16 = .unsupportedVersion 0 ∧
    decodeKey 40 0b0110_0000_00000000#16 = .unsupportedVersion 6 ∧
    decodeKey 60 0b1111_0101_11111010#16 = .unsupportedVersion 15 := by decide

/-- R83 line 3: IHL 0 and 3 (V-H5a, V-H5d). -/
theorem test_decode_malformedIhl03 : decodeKey 60 0b0100_0000_11111010#16 = .malformedIhl03 0 ∧
    decodeKey 60 0b0100_0011_11111010#16 = .malformedIhl03 3 := by decide

/-- R83 line 3: IHL 4 (V-H5e). -/
theorem test_decode_malformedIhl4 : decodeKey 60 0b0100_0100_11111010#16 = .malformedIhl4 := by decide

/-- R83 line 4: V-H6b and V-H6c. -/
theorem test_decode_malformedOverlength : decodeKey 23 0b0100_0110_11111010#16 = .malformedOverlength 6 ∧
    decodeKey 59 0b0100_1111_11111010#16 = .malformedOverlength 15 := by decide

/-- R83 line 5. -/
theorem test_decode_tcp : decodeKey 20 0b0100_0101_00000110#16 = .decodeTcp 5 ∧
    decodeKey 60 0b0100_1111_00000110#16 = .decodeTcp 15 := by decide

/-- R83 line 6. -/
theorem test_decode_udp : decodeKey 26 0b0100_0101_00010001#16 = .decodeUdp 5 ∧
    decodeKey 24 0b0100_0110_00010001#16 = .decodeUdp 6 := by decide

/-- R83 line 7. -/
theorem test_decode_icmp : decodeKey 22 0b0100_0101_00000001#16 = .decodeIcmp 5 := by decide

/-- R83 line 8: the protocols next to 1, 6 and 17, and the ends of the range. -/
theorem test_decode_other :
    ([0, 2, 5, 7, 16, 18, 147, 148, 255] : List Byte).map (fun p => decodeKey 20 (0b0100_0101#8 ++ p)) =
      ([0, 2, 5, 7, 16, 18, 147, 148, 255] : List Byte).map (fun p => Instr.decodeOther 5 p) := by decide

/-- R85: bit 0 with bits 31:1 clear. -/
theorem test_decode_start : decodeCmd 0b1#32 = .start := by decide

/-- R85: the value 0. -/
theorem test_decode_cmdNop : decodeCmd 0#32 = .cmdNop := by decide

/-- R85: the lowest and the highest reserved bit, with and without START. -/
theorem test_decode_cmdReserved : decodeCmd 2#32 = .cmdReserved 2 ∧ decodeCmd 3#32 = .cmdReserved 3 ∧
    decodeCmd 0x80000001#32 = .cmdReserved 0x80000001 := by decide

/-- R86's pattern for WBUF: `00000001` a×24 `0`×24 d×8; a set bit 8 of data is refused. -/
theorem test_decode_wbuf : decodeHostWord 0x01_FFFFFF_000000_CD#64 = .ok (.wbuf 0xFFFFFF 0xCD) ∧
    decodeHostWord 0x01_000000_000001_00#64 = .error .reservedFieldSet := by decide

/-- R86's pattern for WREG: `00000010` r×24 v×32; V-O1 and P1's timestamp. -/
theorem test_decode_wreg : decodeHostWord 0x02_000004_00000000#64 = .ok (.wreg 4 0) ∧
    decodeHostWord 0x02_000002_02B32C95#64 = .ok (.wreg 2 45296789) := by decide

/-- R86's pattern for RREG: `00000011` r×24 `0`×32; V-O4; a set data bit is refused. -/
theorem test_decode_rreg : decodeHostWord 0x03_000022_00000000#64 = .ok (.rreg 34) ∧
    decodeHostWord 0x03_000022_80000000#64 = .error .reservedFieldSet := by decide

/-- R86's pattern for WAIT: `00000100` `0`×56; a set bit 55 is refused, and so are ops 0 and 5. -/
theorem test_decode_wait : decodeHostWord 0x04_000000_00000000#64 = .ok .wait ∧
    decodeHostWord 0x04_800000_00000000#64 = .error .reservedFieldSet ∧
    decodeHostWord 0x00_000000_00000000#64 = .error .unknownOp ∧
    decodeHostWord 0x05_000000_00000000#64 = .error .unknownOp := by decide

/-- The table word of each row decodes and is what the next step runs (R82, R85, R86; log 14). -/
theorem test_table_words : decodeTableWord 16 0x4506 = some (.decodeTcp 5) ∧ decodeTableWord 32 1 = some .start ∧
    decodeTableWord 64 0x0300000400000000 = some (.rreg 4) ∧ decodeTableWord 64 0 = none ∧ decodeTableWord 8 0 = none := by
  decide

/-! ### The IPv4 paths, one step each -/

/-- V-P1 and V-H1: nothing is read, so nothing need be written. -/
theorem test_ipTruncated : exec .ipTruncated (busy 10 0 []) = .next (doneWith (busy 10 0 []) (errorResults .truncated)) ∧
    exec .ipTruncated (busy 0 0 []) = .next (doneWith (busy 0 0 []) (errorResults .truncated)) := ⟨rfl, rfl⟩

/-- V-P2: version before IHL; only byte 0 is written. -/
theorem test_unsupportedVersion : exec (.unsupportedVersion 6) (busy 40 0 [0x60]) =
    .next (doneWith (busy 40 0 [0x60]) (errorResults .unsupportedVersion)) := rfl

/-- V-H5d. -/
theorem test_malformedIhl03 : exec (.malformedIhl03 3) (busy 60 0 [0x43]) =
    .next (doneWith (busy 60 0 [0x43]) (errorResults .malformedHeader)) := rfl

/-- V-H5e. -/
theorem test_malformedIhl4 : exec .malformedIhl4 (busy 60 0 [0x44]) =
    .next (doneWith (busy 60 0 [0x44]) (errorResults .malformedHeader)) := rfl

/-- V-P3 and V-H6c: the header-length check comes before the transport check. -/
theorem test_malformedOverlength : exec (.malformedOverlength 6) (busy 20 0 [0x46]) =
      .next (doneWith (busy 20 0 [0x46]) (errorResults .malformedHeader)) ∧
    exec (.malformedOverlength 15) (busy 59 0 [0x4F]) =
      .next (doneWith (busy 59 0 [0x4F]) (errorResults .malformedHeader)) := ⟨rfl, rfl⟩

/-! ### The transport paths, one step each -/

/-- P1's end state (E4). -/
theorem test_decodeTcp : (nextOf (exec (.decodeTcp 5) tcpBusy)).map (fun t => t.results) = some
    { Results.zero with
      cls := .tcp, version := 4, ihl := 5, hdrBytes := 20, totalLen := 40, ident := 1, ttl := 64, proto := 6
      hdrCksum := 0x66CD, srcAddr := 0x0A000001, dstAddr := 0x0A000002, srcPort := 12345, dstPort := 80, tcpDoff := 5
      tcpFlags := 0x02, tcpWin := 8192, tsOut := 45296789, protoKnown := 1 } := by decide

/-- V-D1 and V-D3: 15 transport bytes are too few. -/
theorem test_decodeTcp_short : nextOf (exec (.decodeTcp 5) (busy 35 0 (header 0x45 0 0 6 ++ t0))) =
      some (doneWith (busy 35 0 (header 0x45 0 0 6 ++ t0)) (errorResults .truncated)) ∧
    nextOf (exec (.decodeTcp 6) (busy 39 0 (header 0x46 0 0 6))) =
      some (doneWith (busy 39 0 (header 0x46 0 0 6)) (errorResults .truncated)) := by decide

/-- V-D7. -/
theorem test_decodeUdp : (nextOf (exec (.decodeUdp 5) udpBusy)).map (fun t => t.results) = some
    { Results.zero with
      cls := .udp, version := 4, ihl := 5, hdrBytes := 20, totalLen := 20, ttl := 64, proto := 17
      srcAddr := 0x0A000001, dstAddr := 0x0A000002, srcPort := 5353, dstPort := 5353, udpLen := 8, protoKnown := 1 } := by
  decide

/-- V-D8: 5 transport bytes are too few. -/
theorem test_decodeUdp_short : nextOf (exec (.decodeUdp 5) (busy 25 0 udpPacket)) =
    some (doneWith (busy 25 0 udpPacket) (errorResults .truncated)) := by decide

/-- V-D9. -/
theorem test_decodeIcmp : (nextOf (exec (.decodeIcmp 5) icmpBusy)).map (fun t => t.results) = some
    { Results.zero with
      cls := .icmp, version := 4, ihl := 5, hdrBytes := 20, totalLen := 20, ttl := 64, proto := 1
      srcAddr := 0x0A000001, dstAddr := 0x0A000002, icmpType := 8, icmpCode := 0, protoKnown := 1 } := by decide

/-- V-D10 and V-D11: 1 and 0 transport bytes are too few. -/
theorem test_decodeIcmp_short : nextOf (exec (.decodeIcmp 5) (busy 21 0 icmpPacket)) =
      some (doneWith (busy 21 0 icmpPacket) (errorResults .truncated)) ∧
    nextOf (exec (.decodeIcmp 5) (busy 20 0 (header 0x45 0 0 1))) =
      some (doneWith (busy 20 0 (header 0x45 0 0 1)) (errorResults .truncated)) := by decide

/-- V-H3, S0: and with V-H8a's flags and V-H6d's IHL 15 and its unwritten options. -/
theorem test_decodeOther : (nextOf (exec (.decodeOther 5 250) otherBusy)).map (fun t => t.results) = some
      { Results.zero with
        version := 4, ihl := 5, hdrBytes := 20, totalLen := 20, ttl := 64, proto := 250
        srcAddr := 0x0A000001, dstAddr := 0x0A000002 } ∧
    (nextOf (exec (.decodeOther 15 250) (busy 60 86399999 (header 0x4F 0xFF 0xFF 0xFA)))).map (fun t => t.results) = some
      { Results.zero with
        version := 4, ihl := 15, hdrBytes := 60, totalLen := 20, ttl := 64, proto := 250, flagRsv := 1, flagDf := 1
        flagMf := 1, fragOff := 8191, srcAddr := 0x0A000001, dstAddr := 0x0A000002, tsOut := 86399999 } := by decide

/-- V-R4, P6: byte 0 unwritten; and V-H3 with byte 19 unwritten: the results stay, UnwrittenByte is recorded. -/
theorem test_unwritten : nextOf (blockStep (busy 20 0 [])) = some (doneUnwritten (busy 20 0 [])) ∧
    nextOf (exec (.decodeOther 5 250) (busy 20 0 (h0.take 19))) = some (doneUnwritten (busy 20 0 (h0.take 19))) := by
  decide

/-- A decode path runs only where its guard holds (R82; log 12). -/
theorem test_guard : exec (.decodeUdp 5) tcpBusy = .fault .guardNotMet ∧
    exec .ipTruncated State.reset = .fault .guardNotMet ∧ exec (.cmdReserved 1) State.reset = .fault .guardNotMet :=
  ⟨rfl, rfl, rfl⟩

/-! ### Commands and host operations, one step each -/

/-- R175's example, and V-O11's second START. -/
theorem test_start : (nextOf (exec .start { State.reset with len := 40, lenL := 7 })).map
      (fun t => (t.phase, t.lenL, t.tsL, t.len)) = some (.busy, 40, 0, 40) ∧
    (nextOf (exec .start tcpBusy)).map (fun t => (t.phase, t.lenL, t.hostFaults.startWhileBusy)) =
      some (.busy, 40, true) := by decide

/-- V-O3, while BUSY. -/
theorem test_cmdNop : nextOf (exec .cmdNop tcpBusy) = some tcpBusy := by decide

/-- V-O2: PHASE stays IDLE. -/
theorem test_cmdReserved : nextOf (exec (.cmdReserved 3) State.reset) = some (faulted State.reset .reservedCmdBits) ∧
    nextOf (exec (.wreg 0 3) State.reset) = some (faulted State.reset .reservedCmdBits) := by decide

/-- R172's example; writing twice keeps the last value; V-O12: a write while BUSY is not performed. -/
theorem test_wbuf : (nextOf (exec (.wbuf 0 0x45) { State.reset with buffer := [(0, 1), (3, 2)] })).map (fun t => t.buffer) =
      some [(0, 0x45), (3, 2)] ∧
    (nextOf (exec (.wbuf 19 7) { State.reset with buffer := [(0, 1), (3, 2)] })).map (fun t => t.buffer) =
      some [(0, 1), (3, 2), (19, 7)] ∧
    nextOf (exec (.wbuf 0 9) tcpBusy) = some (faulted tcpBusy .bufWriteWhileBusy) := by decide

/-- R172, V-O8: the first address past the buffer, whatever BUF_LEN_MAX is; the range check comes before the phase check. -/
theorem test_wbuf_out_of_range (s : State) : s.hostWriteByte Config.bufLenMax 0 = s.recordFault .bufOutOfRange :=
  if_pos (Nat.le_refl _)

/-- V-O13: a write to LEN while BUSY leaves LEN_L; V-O1, V-O5. -/
theorem test_wreg : (nextOf (exec (.wreg 1 20) tcpBusy)).map (fun t => (t.len, t.lenL, t.hostFaults)) =
      some (20, 40, FaultRecord.empty) ∧
    nextOf (exec (.wreg 4 0) State.reset) = some (faulted State.reset .readOnly) ∧
    nextOf (exec (.wreg 34 0) State.reset) = some (faulted State.reset .badRegister) := by decide

/-- V-O7: LEN accepts 0 and every value up to BUF_LEN_MAX, here 20. -/
theorem test_wreg_len : (nextOf (exec (.wreg 1 20) State.reset)).map (fun t => t.len) = some 20 ∧
    (nextOf (exec (.wreg 2 0xFFFFFFFF) State.reset)).map (fun t => t.tsIn) = some 0xFFFFFFFF := by decide

/-- P5's reads of register 18 and 20 after H0; V-O10, V-O14. -/
theorem test_rreg : (nextOf (exec (.rreg 18) otherDone)).map (fun t => t.hostReads) = some [250] ∧
    (nextOf (exec (.rreg 20) otherDone)).map (fun t => t.hostReads) = some [0x0A000001] ∧
    (nextOf (exec (.rreg 0) tcpBusy)).map (fun t => t.hostReads) = some [0] ∧
    (nextOf (exec (.rreg 3) tcpBusy)).map (fun t => t.hostReads) = some [1] := by decide

/-- V-O4, and P7's second interleaving: nothing is returned. -/
theorem test_rreg_faults : nextOf (exec (.rreg 34) State.reset) = some (faulted State.reset .badRegister) ∧
    nextOf (exec (.rreg 4) tcpBusy) = some (faulted tcpBusy .readWhileBusy) := by decide

/-- R179: goes on at DONE; V-O15: holds in IDLE, and holds while BUSY. -/
theorem test_wait : (nextOf (exec .wait (withEvent otherDone waitEvent))).map (fun t => t.hostQueue) = some [] ∧
    (nextOf (exec .wait (withEvent State.reset waitEvent))).map (fun t => t.hostQueue) = some [waitEvent] ∧
    (nextOf (exec .wait (withEvent tcpBusy waitEvent))).map (fun t => t.hostQueue) = some [waitEvent] := by decide

/-! ### The step -/

/-- R179, R180: a host at a WAIT leaves the move to the block, even when the turn is the host's. -/
theorem test_step_complete : (nextOf (step (withEvent otherBusy waitEvent))).map (fun t => (t.phase, t.results.proto)) =
    some (.done, 250) := by decide

/-- V-R2, V-R3: reset while BUSY commits nothing, clears every written-flag and keeps the fault record. -/
theorem test_step_reset : (nextOf (step (withEvent (tcpBusy.recordFault .readOnly) .reset))).map
    (fun t => { t with turn := .host, tick := 0 }) = some (State.reset.recordFault .readOnly) := by decide

/-- Every encoding's word, placed after reset, is the next thing the machine runs (log 14): P1's START, R86's words, and
the key 0x4506 in the packet that holds it alone. -/
theorem test_step_placed : (nextOf (step (State.reset.withFetchWord 32 1))).map (fun t => t.phase) = some .busy ∧
    (nextOf (step (State.reset.withFetchWord 64 0x0100000000000045))).map (fun t => t.buffer) = some [(0, 0x45)] ∧
    (nextOf (step (State.reset.withFetchWord 64 0x0300000300000000))).map (fun t => t.hostReads) = some [0] ∧
    (nextOf (step (State.reset.withFetchWord 16 0x4506))).map
      (fun t => (t.phase, t.results.cls, t.results.hdrBytes)) = some (.done, .tcp, 20) := by decide

/-! ### The formatter -/

/-- V-F7 to V-F10. -/
theorem test_time : timeToken 0 = "00:00:00.000" ∧ timeToken 3723004 = "01:02:03.004" ∧
    timeToken 45296789 = "12:34:56.789" ∧ timeToken 86399999 = "23:59:59.999" := by decide

/-- V-H11, V-H10: the first wire byte is printed first. -/
theorem test_dotted : dotted 0xC0A8010A = "192.168.1.10" ∧ dotted 0xFFFFFFFF = "255.255.255.255" ∧ dotted 0 = "0.0.0.0" := by
  decide

/-- P1's line and verbose line (E4). -/
theorem test_format_tcp : (formatTokens (wholeDecode (bytesOf p1) 40 45296789) false).map lineOf =
      some "12:34:56.789 TCP 10.0.0.1:12345 -> 10.0.0.2:80 SYN\n" ∧
    formatTokens (wholeDecode (bytesOf p1) 40 45296789) true = some
      ["12:34:56.789", "TCP", "10.0.0.1:12345", "->", "10.0.0.2:80", "SYN", "seq", "0", "ack", "0", "win", "8192",
        "dscp", "0", "ecn", "0", "ttl", "64"] := by decide

/-- V-D5a: all six flags, in order; V-D5e: none. -/
theorem test_flag_tokens : tcpFlagTokens 0x3F = ["FIN", "SYN", "RST", "PSH", "ACK", "URG"] ∧
    tcpFlagTokens 0x12 = ["SYN", "ACK"] ∧ tcpFlagTokens 0 = [] := by decide

/-- E5 (V-D7) and E6 (V-D9). -/
theorem test_format_udp_icmp : formatTokens (wholeDecode (bytesOf udpPacket) 26 0) true = some
      ["00:00:00.000", "UDP", "10.0.0.1:5353", "->", "10.0.0.2:5353", "dscp", "0", "ecn", "0", "ttl", "64"] ∧
    formatTokens (wholeDecode (bytesOf icmpPacket) 22 0) false = some
      ["00:00:00.000", "ICMP", "10.0.0.1", "->", "10.0.0.2", "type", "8", "code", "0", "[echo request]"] := by decide

/-- E7 and E8 (V-H8b): an unknown protocol with DF. -/
theorem test_format_other : formatTokens (wholeDecode (bytesOf (header 0x45 0x40 0 0xFA)) 20 0) false = some
    ["00:00:00.000", "Unknown", "10.0.0.1", "->", "10.0.0.2", "DF"] := by decide

/-- V-F1 to V-F6: the description table. -/
theorem test_icmp_descriptions : ([0, 3, 5, 1, 11, 255] : List Byte).map icmpDescription =
    [some "echo reply", some "destination unreachable", some "redirect", some "time exceeded", none, none] := by decide

/-- E10 and V-T5. -/
theorem test_names : nameFor 6 = "TCP" ∧ nameFor 17 = "UDP" ∧ nameFor 1 = "ICMP" ∧ nameFor 148 = "Unknown" ∧
    nameFor 250 = "Unknown" ∧ nameFor 255 = "Unknown" := by decide

/-- R87: LOAD and DECODE expand to the words P1 lists. -/
theorem test_load : loadProgram 18 [0x00, 0x02] =
      [.word 0x0100001200000000#64, .word 0x0100001300000002#64] ∧
    decodeProgram 40 45296789 = [.word 0x0200000100000028#64, .word 0x0200000202B32C95#64, .word 0x0200000000000001#64,
      .word 0x0400000000000000#64] := by decide

/-- R87, R86: a LOAD across the last address a word names writes that address by its word and the next by the model's own
event, not address 0 (log 23). -/
theorem test_load_boundary : loadProgram 0xFFFFFF [0x45, 0x46] =
    [.word 0x01_FFFFFF_000000_45#64, .byteWrite 0x1000000 0x46] := by decide

/-- R172, by the model's own event: the byte is stored, and while BUSY it is not (log 23). -/
theorem test_byteWrite : (nextOf (step (withEvent State.reset (.byteWrite 19 7)))).map (fun t => t.buffer) = some [(19, 7)] ∧
    (nextOf (step (withEvent otherBusy (.byteWrite 0 9)))).map (fun t => (t.buffer, t.hostFaults.bufWriteWhileBusy)) =
      some (otherBusy.buffer, true) := by decide

/-- The conflict C4's overlapping conditions (V-P1, V-P2, V-P3, V-P4). -/
theorem test_priority : (wholeDecode (bytesOf [0x60]) 10 0).err = .truncated ∧
    (wholeDecode (bytesOf [0x60]) 40 0).err = .unsupportedVersion ∧
    (wholeDecode (bytesOf (header 0x46 0 0 6)) 20 0).err = .malformedHeader ∧
    (wholeDecode (bytesOf (header 0x45 0 0 6)) 20 0).err = .truncated := by decide

/-! ### Witnesses: concrete values that meet the hypotheses of each statement -/

/-- DecodeOfEncodeIsTheInstruction: every row, with its guard at a boundary of LEN_L. -/
theorem test_witness_DecodeOfEncode :
    ([(.ipTruncated, 19), (.unsupportedVersion 6, 20), (.malformedIhl03 3, 20), (.malformedIhl4, 20),
      (.malformedOverlength 6, 23), (.decodeTcp 6, 24), (.decodeUdp 15, 60), (.decodeIcmp 5, 20), (.decodeOther 5 250, 20),
      (.start, 0), (.cmdNop, 0), (.cmdReserved 2, 0), (.wbuf 0xFFFFFF 0xFF, 0), (.wreg 34 0, 0), (.rreg 33, 0),
      (.wait, 0)] : List (Instr × Nat)).all (fun c => c.1.wellFormed && c.1.lenGuard c.2) = true := by decide

/-- HostEncodingsHaveOneMeaning: each host operation has a word. -/
theorem test_witness_HostEncodings : decodeHostWord 0x0100000000000045#64 = .ok (.wbuf 0 0x45) ∧
    decodeHostWord 0x0200000100000028#64 = .ok (.wreg 1 40) ∧ decodeHostWord 0x0300000400000000#64 = .ok (.rreg 4) ∧
    decodeHostWord 0x0400000000000000#64 = .ok .wait := by decide

/-- DecodedInstructionsAreWellFormed: a word of each encoding decodes. -/
theorem test_witness_Decoded : decodeCode 20 (.key 0x45FA#16) = .ok (.decodeOther 5 250) ∧
    decodeCode 20 (.cmd 2#32) = .ok (.cmdReserved 2) ∧ decodeCode 20 (.host 0x0400000000000000#64) = .ok .wait := by decide

/-- ShortPacketCommitsTruncated, at 19 and 0. -/
theorem test_witness_ShortPacket : (busy 19 0 []).phase = .busy ∧ (busy 19 0 []).lenL.toNat < 20 ∧
    (busy 0 0 []).lenL.toNat < 20 := by decide

/-- OtherVersionCommitsUnsupportedVersion, at LEN_L 20 and versions 3, 5. -/
theorem test_witness_OtherVersion : (busy 20 0 [0x35]).phase = .busy ∧ 20 ≤ (busy 20 0 [0x35]).lenL.toNat ∧
    (busy 20 0 [0x35]).byte? 0 = some (3#4 ++ 5#4) ∧ (3#4 : BitVec 4) ≠ 4#4 ∧
    (busy 20 0 [0x5F]).byte? 0 = some (5#4 ++ 15#4) ∧ (5#4 : BitVec 4) ≠ 4#4 := by decide

/-- BadHeaderLengthCommitsMalformedHeader: IHL 3, 4, and 6 with LEN_L 23. -/
theorem test_witness_BadHeaderLength :
    ((busy 20 0 [0x43]).byte? 0 = some (4#4 ++ 3#4) ∧ (3#4 : BitVec 4).toNat < 4 ∧ 20 ≤ (busy 20 0 [0x43]).lenL.toNat) ∧
    ((busy 20 0 [0x44]).byte? 0 = some (4#4 ++ 4#4) ∧ (4#4 : BitVec 4).toNat = 4) ∧
    ((busy 23 0 [0x46]).byte? 0 = some (4#4 ++ 6#4) ∧ (busy 23 0 [0x46]).lenL.toNat < (6#4 : BitVec 4).toNat * 4) := by
  decide

/-- TcpPacketCommitsEveryField: V-D2, with exactly 16 transport bytes. -/
theorem test_witness_TcpPacket : headerAccepted (busy 36 0 (header 0x45 0 0 6 ++ t0)) (bytesOf (header 0x45 0 0 6 ++ t0)) 5 ∧
    bytesOf (header 0x45 0 0 6 ++ t0) 9 = 6#8 ∧
    transportPresent (busy 36 0 (header 0x45 0 0 6 ++ t0)) (bytesOf (header 0x45 0 0 6 ++ t0)) 5 16 := by
  refine ⟨⟨by decide, by decide, by decide, by decide, by decide, by decide⟩, by decide, by decide, ?_⟩
  intro a h1 h2
  have h1 : 20 ≤ a := h1
  have h2 : a < 36 := h2
  interval_cases a <;> decide

/-- UdpPacketCommitsEveryField: V-D7, with exactly 6 transport bytes. -/
theorem test_witness_UdpPacket : headerAccepted udpBusy (bytesOf udpPacket) 5 ∧ bytesOf udpPacket 9 = 17#8 ∧
    transportPresent udpBusy (bytesOf udpPacket) 5 6 := by
  refine ⟨⟨by decide, by decide, by decide, by decide, by decide, by decide⟩, by decide, by decide, ?_⟩
  intro a h1 h2
  have h1 : 20 ≤ a := h1
  have h2 : a < 26 := h2
  interval_cases a <;> decide

/-- IcmpPacketCommitsEveryField: V-D9, with exactly 2 transport bytes. -/
theorem test_witness_IcmpPacket : headerAccepted icmpBusy (bytesOf icmpPacket) 5 ∧ bytesOf icmpPacket 9 = 1#8 ∧
    transportPresent icmpBusy (bytesOf icmpPacket) 5 2 := by
  refine ⟨⟨by decide, by decide, by decide, by decide, by decide, by decide⟩, by decide, by decide, ?_⟩
  intro a h1 h2
  have h1 : 20 ≤ a := h1
  have h2 : a < 22 := h2
  interval_cases a <;> decide

/-- OtherPacketCommitsIpFields: V-H3, and V-H6d's longest header. -/
theorem test_witness_OtherPacket : headerAccepted otherBusy (bytesOf h0) 5 ∧
    headerAccepted (busy 60 0 (header 0x4F 0 0 0xFA)) (bytesOf (header 0x4F 0 0 0xFA)) 15 ∧
    bytesOf h0 9 ≠ 1#8 ∧ bytesOf h0 9 ≠ 6#8 ∧ bytesOf h0 9 ≠ 17#8 :=
  ⟨⟨by decide, by decide, by decide, by decide, by decide, by decide⟩,
    ⟨by decide, by decide, by decide, by decide, by decide, by decide⟩, by decide, by decide, by decide⟩

/-- ShortTransportCommitsTruncated: V-D1, V-D8, V-D10, each one byte short. -/
theorem test_witness_ShortTransport :
    (headerAccepted (busy 35 0 (header 0x45 0 0 6)) (bytesOf (header 0x45 0 0 6)) 5 ∧
      bytesOf (header 0x45 0 0 6) 9 = 6#8 ∧ (busy 35 0 (header 0x45 0 0 6)).lenL.toNat < 5 * 4 + 16) ∧
    (headerAccepted (busy 25 0 udpPacket) (bytesOf udpPacket) 5 ∧ bytesOf udpPacket 9 = 17#8 ∧
      (busy 25 0 udpPacket).lenL.toNat < 5 * 4 + 6) ∧
    (headerAccepted (busy 21 0 icmpPacket) (bytesOf icmpPacket) 5 ∧ bytesOf icmpPacket 9 = 1#8 ∧
      (busy 21 0 icmpPacket).lenL.toNat < 5 * 4 + 2) :=
  ⟨⟨⟨by decide, by decide, by decide, by decide, by decide, by decide⟩, by decide, by decide⟩,
    ⟨⟨by decide, by decide, by decide, by decide, by decide, by decide⟩, by decide, by decide⟩,
    ⟨⟨by decide, by decide, by decide, by decide, by decide, by decide⟩, by decide, by decide⟩⟩

/-- BlockStepIsTheWholeDecode: a block that is BUSY, with its read set written and not. -/
theorem test_witness_BlockStep : otherBusy.phase = .busy ∧ (busy 20 0 []).phase = .busy := by decide

/-- DecodeReadsOnlyBelowLength: the last byte of V-D2's and of V-H3's read set. -/
theorem test_witness_ReadsBelow : 35 ∈ readSet (bytesOf (header 0x45 0 0 6 ++ t0)) 36 ∧ 19 ∈ readSet (bytesOf h0) 20 := by decide

/-- DecodeDependsOnlyOnItsInputs: two blocks that differ in an input register, a result, and a byte no path reads. -/
theorem test_witness_DependsOnly :
    otherBusy.phase = .busy ∧ (busy 20 0 (h0 ++ [0xFF])).phase = .busy ∧
    otherBusy.lenL = (busy 20 0 (h0 ++ [0xFF])).lenL ∧ otherBusy.tsL = (busy 20 0 (h0 ++ [0xFF])).tsL ∧
    (∀ a ∈ readSet otherBusy.byteAt otherBusy.lenL.toNat,
      ∃ v, otherBusy.byte? a = some v ∧ (busy 20 0 (h0 ++ [0xFF])).byte? a = some v) ∧
    otherBusy ≠ busy 20 0 (h0 ++ [0xFF]) := by
  refine ⟨by decide, by decide, by decide, by decide, ?_, by decide⟩
  intro a ha
  have hr : readSet otherBusy.byteAt otherBusy.lenL.toNat = headerReads := by decide
  rw [hr, mem_headerReads] at ha
  interval_cases a <;> exact ⟨_, rfl, rfl⟩

/-- UnwrittenByteLeavesResults: byte 19 of H0 unwritten. -/
theorem test_witness_Unwritten : (busy 20 0 (h0.take 19)).phase = .busy ∧
    19 ∈ readSet (busy 20 0 (h0.take 19)).byteAt (busy 20 0 (h0.take 19)).lenL.toNat ∧
    (busy 20 0 (h0.take 19)).byte? 19 = none := by decide

/-- ClassAgreesWithProtocol: a success of each class, and protocol 148. -/
theorem test_witness_ClassAgrees : (wholeDecode (bytesOf p1) 40 0).err = .ok ∧ (wholeDecode (bytesOf p1) 40 0).cls = .tcp ∧
    (wholeDecode (bytesOf udpPacket) 26 0).err = .ok ∧ (wholeDecode (bytesOf udpPacket) 26 0).cls = .udp ∧
    (wholeDecode (bytesOf icmpPacket) 22 0).err = .ok ∧ (wholeDecode (bytesOf icmpPacket) 22 0).cls = .icmp ∧
    (wholeDecode (bytesOf (header 0x45 0 0 148)) 20 0).err = .ok ∧
    (wholeDecode (bytesOf (header 0x45 0 0 148)) 20 0).proto.toNat = 148 := by decide

/-- ErrorLeavesNoStaleData: a decode that fails, and a register other than ERR. -/
theorem test_witness_ErrorLeaves : (wholeDecode (bytesOf (header 0x45 0 0 6)) 20 0).err ≠ .ok ∧ isResultReg .cls = true ∧
    (Reg.cls ≠ .err) ∧ isResultReg .protoKnown = true := by decide

/-- ErrorPriority, clause by clause: V-P1; V-H4d; V-H5e and V-H6b; V-D2 and V-D11. -/
theorem test_witness_ErrorPriority : (bytesOf h0 0).extractLsb' 4 4 = 4#4 ∧ (bytesOf h0 0).extractLsb' 0 4 = 5#4 ∧
    5 * 4 ≤ 20 ∧ (bytesOf [0x65] 0).extractLsb' 4 4 ≠ 4#4 ∧ (bytesOf [0x44] 0).extractLsb' 4 4 = 4#4 ∧
    ((bytesOf [0x44] 0).extractLsb' 0 4).toNat < 5 ∧ (bytesOf [0x46] 0).extractLsb' 4 4 = 4#4 ∧
    23 < ((bytesOf [0x46] 0).extractLsb' 0 4).toNat * 4 := by decide

/-- IllegalRegisterOperationsRecordFaults: register numbers 34, 3 and 33, and the lowest and highest reserved bit. -/
theorem test_witness_Illegal : 34 ≤ (34#24 : BitVec 24).toNat ∧ 3 ≤ (3#24 : BitVec 24).toNat ∧ (33#24 : BitVec 24).toNat ≤ 33 ∧
    (2#32 : Word).extractLsb' 1 31 ≠ 0#31 ∧ (0x80000000#32 : Word).extractLsb' 1 31 ≠ 0#31 := by decide

/-- WbufStoresOneByte, each clause: address 19 lies in every buffer; while BUSY; and the first address past the buffer is
beyond it (in a host word where BUF_LEN_MAX is below 2^24). -/
theorem test_witness_Wbuf : ¬ Config.bufLenMax ≤ (19#24 : BitVec 24).toNat ∧ State.reset.phase ≠ .busy ∧
    tcpBusy.phase = .busy ∧ (Config.bufLenMax < 2 ^ 24 →
      Config.bufLenMax ≤ (BitVec.ofNat 24 Config.bufLenMax).toNat) := by
  refine ⟨by decide, by decide, by decide, fun h => ?_⟩
  rw [BitVec.toNat_ofNat, Nat.mod_eq_of_lt h]

/-- WregLenSetsLength, each clause: 20 is legal in every configuration; BUF_LEN_MAX + 1 is not (where 32 bits hold it). -/
theorem test_witness_WregLen : ¬ Config.bufLenMax < (20#32 : Word).toNat ∧ (Config.bufLenMax + 1 < 2 ^ 32 →
    Config.bufLenMax < (BitVec.ofNat 32 (Config.bufLenMax + 1)).toNat) := by
  refine ⟨by decide, fun h => ?_⟩
  rw [BitVec.toNat_ofNat, Nat.mod_eq_of_lt h]
  omega

/-- RregReturnsTheRegister: the numbers where its clauses meet. -/
theorem test_witness_Rreg : regOf (0#24 : BitVec 24).toNat = some .cmd ∧ regOf (3#24 : BitVec 24).toNat = some .phase ∧
    regOf (4#24 : BitVec 24).toNat = some .err ∧ regOf (33#24 : BitVec 24).toNat = some .protoKnown := by decide

/-- RegistersReadTheirFields: a state of each phase. -/
theorem test_witness_RegisterFields : State.reset.phase = .idle ∧ tcpBusy.phase = .busy ∧ otherDone.phase = .done ∧
    State.reset.results.err = .ok ∧ (errorResults .truncated).err = .truncated ∧ otherDone.results.cls = .other ∧
    (wholeDecode (bytesOf p1) 40 0).cls = .tcp := by decide

/-- HostInstructionsFrame: every command and host word answers a next state. -/
theorem test_witness_HostFrame :
    ([.start, .cmdNop, .cmdReserved 2, .wbuf 19 7, .wreg 1 20, .rreg 4, .wait] : List Instr).all
      (fun i => !isDecodePath i && (nextOf (exec i State.reset)).isSome) = true := by decide

/-- DecodePathsFrame: every decode path answers a next state. -/
theorem test_witness_PathsFrame :
    ([(.ipTruncated, busy 19 0 []), (.unsupportedVersion 6, busy 20 0 [0x65]), (.malformedIhl03 0, busy 20 0 [0x40]),
      (.malformedIhl4, busy 20 0 [0x44]), (.malformedOverlength 6, busy 20 0 [0x46]), (.decodeTcp 5, tcpBusy),
      (.decodeUdp 5, udpBusy), (.decodeIcmp 5, icmpBusy), (.decodeOther 5 250, otherBusy)] : List (Instr × State)).all
      (fun c => isDecodePath c.1 && (nextOf (exec c.1 c.2)).isSome) = true := by decide

/-- StepRunsTheDecodedInstruction, each clause: among them a path that reads no byte, one with only byte 0 written, and a key
byte that is unwritten. -/
theorem test_witness_StepRuns :
    ((withEvent State.reset waitEvent).mover = .host ∧ decodeHostWord 0x0400000000000000#64 = .ok .wait) ∧
    (withEvent State.reset (.cmd 1)).mover = .host ∧
    ((busy 20 0 []).mover = .block ∧ selectPath 20 ((busy 20 0 []).byte? 0) ((busy 20 0 []).byte? 9) = none) ∧
    ((busy 19 0 []).mover = .block ∧ selectPath 19 ((busy 19 0 []).byte? 0) ((busy 19 0 []).byte? 9) = some .ipTruncated) ∧
    (selectPath 20 ((busy 20 0 [0x65]).byte? 0) ((busy 20 0 [0x65]).byte? 9) = some (.unsupportedVersion 6)) ∧
    (otherBusy.mover = .block ∧ otherBusy.byte? 0 = some 0x45 ∧ otherBusy.byte? 9 = some 0xFA) ∧
    (State.reset.hostQueue = [] ∧ State.reset.phase ≠ .busy) := by decide

/-- EveryStepKeepsTheInvariant: a BUSY block with a written packet meets the invariant, and steps. -/
theorem test_witness_Invariant : otherBusy.Inv ∧ (nextOf (step otherBusy)).isSome = true :=
  ⟨⟨by decide, by decide, by decide, by decide, .inl rfl, by decide⟩, by decide⟩

/-- ResultsChangeOnlyAtCompletionAndReset and PhaseMovesOnlyAlongItsTransitions: a completion and a reset. -/
theorem test_witness_ResultsChange :
    (nextOf (step otherBusy)).any (fun t => decide (t.results ≠ otherBusy.results ∧ t.phase ≠ otherBusy.phase)) = true ∧
    (nextOf (step (withEvent otherDone .reset))).any
      (fun t => decide (t.results ≠ otherDone.results ∧ t.phase ≠ otherDone.phase)) = true := by decide

/-- PhaseMovesOnlyAlongItsTransitions and LatchesChangeOnlyAtStartAndReset: a START, and a reset while BUSY. -/
theorem test_witness_PhaseLatches :
    (nextOf (step (withEvent { State.reset with len := 20 } (wregEvent 0 1)))).any
      (fun t => decide (t.phase = .busy ∧ t.lenL ≠ 0#32)) = true ∧
    (nextOf (step (withEvent tcpBusy .reset))).any (fun t => decide (t.phase = .idle ∧ t.lenL ≠ tcpBusy.lenL)) = true := by
  decide

/-- BufferChangesOnlyByHostWrites: a WBUF to address 19, and a reset. -/
theorem test_witness_BufferChanges :
    (nextOf (step (withEvent State.reset (.word 0x0100001300000007#64)))).any
      (fun t => decide (t.byte? 19 ≠ State.reset.byte? 19)) = true ∧
    (nextOf (step (withEvent otherDone .reset))).any (fun t => decide (t.byte? 19 ≠ otherDone.byte? 19)) = true := by decide

/-- HostFaultsAreNeverRemoved: a recorded fault, and a step that is a reset. -/
theorem test_witness_FaultKept : (withEvent (otherDone.recordFault .readOnly) .reset).hostFaults.has .readOnly = true ∧
    (nextOf (step (withEvent (otherDone.recordFault .readOnly) .reset))).isSome = true := by decide

/-- A step from a state records a host fault that was not recorded. -/
def recordsFault (s : State) (f : HostFault) : Bool :=
  (nextOf (step s)).any fun t => !s.hostFaults.has f && t.hostFaults.has f

/-- HostFaultsHaveTheirCauses: a step that records each fault that does not depend on BUF_LEN_MAX. -/
theorem test_witness_FaultCauses :
    recordsFault (withEvent State.reset (.word 0x0300002200000000#64)) .badRegister = true ∧
    recordsFault (withEvent State.reset (.word 0x0200000400000000#64)) .readOnly = true ∧
    recordsFault (withEvent State.reset (.cmd 3)) .reservedCmdBits = true ∧
    recordsFault (withEvent otherBusy (.word 0x0100000000000045#64)) .bufWriteWhileBusy = true ∧
    recordsFault (withEvent otherBusy (.cmd 1)) .startWhileBusy = true ∧
    recordsFault (withEvent otherBusy (.word 0x0300000400000000#64)) .readWhileBusy = true ∧
    recordsFault (withEvent otherBusy (.emit false)) .readWhileBusy = true ∧
    recordsFault (busy 20 0 []) .unwrittenByte = true := by decide

/-- HostFaultsHaveTheirCauses: a step that records LenTooLarge and one that records BufOutOfRange, in every configuration
whose BUF_LEN_MAX leaves a value or an address above it. -/
theorem test_witness_FaultCauses_bounds :
    (Config.bufLenMax < 0xFFFFFFFF →
      (State.reset.hostWriteLen 0xFFFFFFFF#32).hostFaults.has .lenTooLarge = true) ∧
    (Config.bufLenMax ≤ 0xFFFFFF → (State.reset.hostWriteByte 0xFFFFFF 0).hostFaults.has .bufOutOfRange = true) := by
  refine ⟨fun h => ?_, fun h => ?_⟩
  · rw [State.hostWriteLen, if_pos (show Config.bufLenMax < (0xFFFFFFFF#32 : Word).toNat from h)]
    rfl
  · rw [State.hostWriteByte, if_pos h]
    rfl

/-- ResetInputClearsTheBlock: a reset pending while BUSY, the turn the host's. -/
theorem test_witness_ResetInput : (withEvent tcpBusy .reset).mover = .host ∧ (withEvent tcpBusy .reset).hostQueue = [.reset] := by
  decide

/-- BlockMovesWhileBusyAndCompletes: the block moves with the turn, without it where the host is at a WAIT or has nothing to
do, and does not where the host has the turn and an event. -/
theorem test_witness_BlockMoves : ({ otherBusy with hostQueue := [.reset] } : State).mover = .block ∧
    (withEvent otherBusy waitEvent).turn = .host ∧ (withEvent otherBusy waitEvent).mover = .block ∧
    ({ otherBusy with turn := .host } : State).mover = .block ∧ (withEvent otherBusy .reset).mover = .host := by decide

/-- The two words that `twoPending`'s host still has to do. -/
def twoWords : List HostEvent := [.word 0x0200000100000014#64, .word 0x0400000000000000#64]

/-- A BUSY block whose host still has two words to do. -/
def twoPending : State := { tcpBusy with hostQueue := twoWords, turn := .host }

/-- EveryDecodeEnds: a BUSY block whose host has two words pending, each of which spells an operation. -/
theorem test_witness_DecodeEnds : twoPending.phase = .busy ∧ twoPending.hostQueue.length = 2 ∧
    ∀ w, HostEvent.word w ∈ twoPending.hostQueue → ∃ i, decodeHostWord w = .ok i := by
  refine ⟨by decide, by decide, fun w hw => ?_⟩
  change HostEvent.word w ∈ twoWords at hw
  simp only [twoWords, List.mem_cons, List.not_mem_nil, or_false] at hw
  obtain h | h := hw
  · cases h
    exact ⟨.wreg 1 20, by decide⟩
  · cases h
    exact ⟨.wait, by decide⟩

/-- StepStopsOnlyOnUnspellableWords: a step that is refused. -/
theorem test_witness_Refused : step (withEvent State.reset (.word 0#64)) = .refused (.badHostWord .unknownOp) := rfl

/-- ProtocolTableIsTotal: the least protocol number of the unassigned range. -/
theorem test_witness_Unassigned : 148 ≤ (148#8 : Byte).toNat := by decide

/-- DontFragmentIsTheLastToken, LinesHaveTheTokensOfTheirClass: a decoded packet of each class. -/
theorem test_witness_Format : (wholeDecode (bytesOf h0) 20 0).err = .ok ∧ (wholeDecode (bytesOf h0) 20 0).cls = .other ∧
    (wholeDecode (bytesOf p1) 40 0).err = .ok ∧ (wholeDecode (bytesOf p1) 40 0).cls = .tcp ∧
    (wholeDecode (bytesOf icmpPacket) 22 0).err = .ok ∧ (wholeDecode (bytesOf icmpPacket) 22 0).cls = .icmp ∧
    (wholeDecode (bytesOf udpPacket) 26 0).err = .ok ∧ (wholeDecode (bytesOf udpPacket) 26 0).cls = .udp := by decide

/-- VerboseOnlyAddsTokens: a packet with both lines. -/
theorem test_witness_Verbose : (formatTokens (wholeDecode (bytesOf p1) 40 0) false).isSome = true ∧
    (formatTokens (wholeDecode (bytesOf p1) 40 0) true).isSome = true := by decide

/-- CaptureLoopWritesOnlyDecodedPackets: the output step in each phase, after a success and after an error. -/
theorem test_witness_Capture : (withEvent otherDone (.emit true)).mover = .host ∧
    (withEvent otherDone (.emit true)).hostQueue = [.emit true] ∧ (withEvent otherDone (.emit true)).phase = .done ∧
    otherDone.results.err = .ok ∧ (errorResults .truncated).err ≠ .ok ∧
    (withEvent (doneWith otherBusy (errorResults .truncated)) (.emit true)).mover = .host ∧
    (withEvent otherBusy (.emit true)).mover = .host ∧ (withEvent otherBusy (.emit true)).phase = .busy ∧
    (withEvent State.reset (.emit true)).mover = .host ∧ (withEvent State.reset (.emit true)).phase = .idle := by decide

/-- HostWritesReachEveryAddress, each clause: a legal address; the first address past the buffer in every configuration; a BUSY
block; the last address a word names and the first it does not. -/
theorem test_witness_HostWrites : (withEvent State.reset (.byteWrite 19 7)).hostQueue = [.byteWrite 19 7] ∧
    ¬ Config.bufLenMax ≤ 19 ∧ (withEvent State.reset (.byteWrite Config.bufLenMax 7)).hostQueue =
      [.byteWrite Config.bufLenMax 7] ∧ Config.bufLenMax ≤ Config.bufLenMax ∧
    (withEvent otherBusy (.byteWrite 19 7)).phase = .busy ∧ (withEvent otherBusy (.byteWrite 19 7)).mover = .host ∧
    0xFFFFFF < 2 ^ 24 ∧ ¬ 0x1000000 < 2 ^ 24 :=
  ⟨by decide, by decide, rfl, Nat.le_refl _, by decide, by decide, by decide, by decide⟩

end Sys2Proof.Tests
end

section
/-! ## The moves of the two agents, and what every step keeps -/

namespace Sys2Proof.Machine
open Sys2Proof.Claims

/-! ### Which path the packet selects (R83) -/

theorem selectPath_short {len : Nat} (b0 b9 : Option Byte) (h : len < 20) :
    selectPath len b0 b9 = some .ipTruncated := if_pos h

theorem selectPath_unwritten {len : Nat} (b9 : Option Byte) (h : 20 ≤ len) : selectPath len none b9 = none :=
  if_neg (by omega)

theorem selectPath_rejected {len : Nat} {vb : Byte} {i : Instr} (b9 : Option Byte) (h : 20 ≤ len)
    (hp : headerPath len vb = some i) : selectPath len (some vb) b9 = some i := by
  simp [selectPath, hp, show ¬ len < 20 by omega]

theorem selectPath_accepted {len : Nat} {vb : Byte} (b9 : Option Byte) (h : 20 ≤ len)
    (hp : headerPath len vb = none) : selectPath len (some vb) b9 = b9.map (transportPath (ihlOf vb)) := by
  simp [selectPath, hp, show ¬ len < 20 by omega]

/-! ### The whole decode, by the stage that ends it (R142) -/

/-- The transport header a class has at `t` (R133 to R137). -/
def transportOf (B : Nat → Byte) (t : Nat) : TransportClass → Transport
  | .tcp => tcpHeaderOf B t
  | .udp => udpHeaderOf B t
  | .icmp => icmpHeaderOf B t
  | .other => .other

theorem readSet_short (B : Nat → Byte) {L : Nat} (h : L < 20) : readSet B L = [] := if_pos h

theorem wholeDecode_short (B : Nat → Byte) {L : Nat} (T : Word) (h : L < 20) :
    wholeDecode B L T = Results.ofError .truncated := if_pos h

/-- A reject path reads byte 0 only, and commits the error of the whole decode. -/
theorem headerPath_rejects {B : Nat → Byte} {L : Nat} {i : Instr} (hL : 20 ≤ L)
    (hp : headerPath L (B 0) = some i) :
    readSet B L = [0] ∧ ∃ e, (∀ T, wholeDecode B L T = Results.ofError e) ∧
      ∀ s : State, exec i s = s.onPath i (s.completeWith [0] (s.commitErr e)) := by
  have hL' : ¬ L < 20 := by omega
  have hc := headerPath_cases L (B 0)
  simp only [hp, Option.some.injEq, reduceCtorEq, and_false, or_false] at hc
  obtain ⟨hv, rfl⟩ | ⟨hv, h3, rfl⟩ | ⟨hv, h4, rfl⟩ | ⟨hv, -, hl, rfl⟩ := hc
  · exact ⟨by simp [readSet, hL', hv], .unsupportedVersion, by simp [wholeDecode, hL', hv], fun _ => rfl⟩
  · have hh : hdrBytesOf (ihlOf (B 0)) < 20 := by unfold hdrBytesOf; omega
    exact ⟨by simp [readSet, hL', hv, hh], .malformedHeader, by simp [wholeDecode, hL', hv, hh], fun _ => rfl⟩
  · have hh : hdrBytesOf (ihlOf (B 0)) < 20 := by rw [h4]; decide
    exact ⟨by simp [readSet, hL', hv, hh], .malformedHeader, by simp [wholeDecode, hL', hv, hh], fun _ => rfl⟩
  · exact ⟨by simp [readSet, hL', hv, hl], .malformedHeader, by simp [wholeDecode, hL', hv, hl], fun _ => rfl⟩

/-- The header is accepted only with version 4 and a length of 5 words or more that fits (R103 to R107). -/
theorem headerPath_eq_none {len : Nat} {vb : Byte} (h : headerPath len vb = none) :
    versionOf vb = 4#4 ∧ 5 ≤ (ihlOf vb).toNat ∧ hdrBytesOf (ihlOf vb) ≤ len := by
  have hc := headerPath_cases len vb
  simpa only [h, reduceCtorEq, and_false, false_or, and_true] using hc

/-- The bytes read once the header is accepted (R145). -/
theorem readSet_accepted {B : Nat → Byte} {L : Nat} (hL : 20 ≤ L) (hp : headerPath L (B 0) = none) :
    readSet B L =
      if L - hdrBytesOf (ihlOf (B 0)) < transportNeed (classOf (B 9)) then headerReads
      else headerReads ++ transportReads (hdrBytesOf (ihlOf (B 0))) (transportNeed (classOf (B 9))) := by
  obtain ⟨hv, h5, hl⟩ := headerPath_eq_none hp
  have hh : ¬ (hdrBytesOf (ihlOf (B 0)) < 20 ∨ L < hdrBytesOf (ihlOf (B 0))) := by unfold hdrBytesOf at *; omega
  simp only [readSet, if_neg (show ¬ L < 20 by omega), hv, ne_eq, not_true_eq_false, if_false, if_neg hh]

/-- A decode that passes the length check reads byte 0. -/
theorem zero_mem_readSet (B : Nat → Byte) {L : Nat} (hL : 20 ≤ L) : 0 ∈ readSet B L := by
  cases hp : headerPath L (B 0) with
  | some i => simp [(headerPath_rejects hL hp).1]
  | none =>
    rw [readSet_accepted hL hp]
    split <;> simp [mem_headerReads]

/-- What is committed once the header is accepted (R133 to R140). -/
theorem wholeDecode_accepted {B : Nat → Byte} {L : Nat} (T : Word) (hL : 20 ≤ L) (hp : headerPath L (B 0) = none) :
    wholeDecode B L T =
      if L - hdrBytesOf (ihlOf (B 0)) < transportNeed (classOf (B 9)) then Results.ofError .truncated
      else Results.ofPacket (ipHeaderOf B (ihlOf (B 0)))
        (transportOf B (hdrBytesOf (ihlOf (B 0))) (classOf (B 9))) T := by
  obtain ⟨hv, h5, hl⟩ := headerPath_eq_none hp
  have hh : ¬ (hdrBytesOf (ihlOf (B 0)) < 20 ∨ L < hdrBytesOf (ihlOf (B 0))) := by unfold hdrBytesOf at *; omega
  simp only [wholeDecode, if_neg (show ¬ L < 20 by omega), hv, ne_eq, not_true_eq_false, if_false, if_neg hh]
  cases classOf (B 9)
  case other => simp [transportNeed, transportOf]
  all_goals rfl

/-- The four transport paths have one form: Truncated on too few bytes for the protocol's class, else the commit of its
header. -/
theorem exec_transportPath (ihl : BitVec 4) (proto : Byte) (s : State) :
    exec (transportPath ihl proto) s = s.onPath (transportPath ihl proto)
      (if s.remaining ihl < transportNeed (classOf proto) then s.completeWith headerReads (s.commitErr .truncated)
       else s.completeWith (headerReads ++ transportReads (hdrBytesOf ihl) (transportNeed (classOf proto)))
        (s.commitOk (ipHeaderOf s.byteAt ihl) (transportOf s.byteAt (hdrBytesOf ihl) (classOf proto)))) := by
  unfold transportPath
  cases classOf proto
  case other => simp [exec, execDecodeOther, transportNeed, transportReads, transportOf]
  all_goals rfl

/-! ### The block's step -/

theorem blockStep_of_pathTaken {s : State} {i : Instr} (h : s.pathTaken = some i) : blockStep s = exec i s := by
  simp [blockStep, h]

theorem blockStep_of_noPath {s : State} (h : s.pathTaken = none) : blockStep s = .next s.completeUnwritten := by
  simp [blockStep, h]

theorem State.completeWith_of_unwritten {s : State} {reads : List Nat} {a : Nat} (commit : State) (ha : a ∈ reads)
    (h : s.byte? a = none) : s.completeWith reads commit = s.completeUnwritten := by
  obtain ⟨hw, -⟩ | ⟨-, hc⟩ := s.completeWith_cases reads commit
  · obtain ⟨v, hv⟩ := (s.allWritten_iff reads).1 hw a ha
    rw [h] at hv
    cases hv
  · exact hc

/-- COMPLETE checks the read set of the whole decode, then commits its results (R142, R180). -/
theorem blockStep_eq_completeWith {s : State} (hb : s.phase = .busy) :
    blockStep s = .next (s.completeWith (readSet s.byteAt s.lenL.toNat)
      (doneWith s (wholeDecode s.byteAt s.lenL.toNat s.tsL))) := by
  by_cases hL : s.lenL.toNat < 20
  · have hp : s.pathTaken = some .ipTruncated := selectPath_short _ _ hL
    rw [blockStep_of_pathTaken hp, readSet_short _ hL, wholeDecode_short _ _ hL]
    exact s.onPath_taken _ hb hp
  have hL' : 20 ≤ s.lenL.toNat := by omega
  cases h0 : s.byte? 0 with
  | none =>
    have hp : s.pathTaken = none := by rw [State.pathTaken, h0, selectPath_unwritten _ hL']
    rw [blockStep_of_noPath hp, State.completeWith_of_unwritten _ (zero_mem_readSet _ hL') h0]
  | some vb =>
    obtain rfl : s.byteAt 0 = vb := State.byteAt_of_byte h0
    cases hh : headerPath s.lenL.toNat (s.byteAt 0) with
    | some i =>
      have hp : s.pathTaken = some i := by rw [State.pathTaken, h0, selectPath_rejected _ hL' hh]
      obtain ⟨hr, e, hw, hx⟩ := headerPath_rejects hL' hh
      rw [blockStep_of_pathTaken hp, hr, hw, hx]
      exact s.onPath_taken _ hb hp
    | none =>
      cases h9 : s.byte? 9 with
      | none =>
        have hp : s.pathTaken = none := by rw [State.pathTaken, h0, h9, selectPath_accepted _ hL' hh]; rfl
        have hmem : 9 ∈ readSet s.byteAt s.lenL.toNat := by
          rw [readSet_accepted hL' hh]
          split <;> simp [mem_headerReads]
        rw [blockStep_of_noPath hp, State.completeWith_of_unwritten _ hmem h9]
      | some p =>
        obtain rfl : s.byteAt 9 = p := State.byteAt_of_byte h9
        have hp : s.pathTaken = some (transportPath (ihlOf (s.byteAt 0)) (s.byteAt 9)) := by
          rw [State.pathTaken, h0, h9, selectPath_accepted _ hL' hh]; rfl
        rw [blockStep_of_pathTaken hp, exec_transportPath, State.onPath_taken _ hb hp, readSet_accepted hL' hh,
          wholeDecode_accepted _ hL' hh, State.remaining]
        split <;> rfl

/-- Settles O19: a COMPLETE whose read set holds an unwritten byte takes no commit. -/
theorem unwrittenByteLeavesResults : Obligations.UnwrittenByteLeavesResults := by
  intro s a hb ha h
  rw [blockStep_eq_completeWith hb, State.completeWith_of_unwritten _ ha h]
  rfl

/-! ### What a step can do -/

/-- What one step of the host does to the state: it holds, goes on, records a fault, writes one thing, starts a decode,
observes, or resets the block. -/
inductive HostMove (s : State) : State → Prop where
  | hold : HostMove s s
  | pass : HostMove s s.retire
  | fault (f : HostFault) : HostMove s (s.recordFault f).retire
  | store (a : Nat) (d : Byte) (stores : nextStores s a d) (inRange : a < Config.bufLenMax)
      (free : s.phase ≠ .busy) : HostMove s (s.setBuffer (s.buffer.write a d)).retire
  | setLen (v : Word) (legal : v.toNat ≤ Config.bufLenMax) : HostMove s (s.setLen v).retire
  | setTsIn (v : Word) : HostMove s (s.setTsIn v).retire
  | start (writes : nextWrites s 0 1#32) (free : s.phase ≠ .busy) :
      HostMove s (s.latchInputs.setPhase .busy).retire
  | read (v : Word) : HostMove s (s.returnRead v).retire
  | line (tokens : List String) : HostMove s (s.writeLine tokens).retire
  | reset (resets : nextResets s) : HostMove s s.assertReset.retire

theorem HostMove.of_hostWriteByte {s : State} {a : Nat} {d : Byte} (h : nextStores s a d) :
    HostMove s (s.hostWriteByte a d).retire := by
  obtain ⟨-, hr⟩ | ⟨-, -, hr⟩ | ⟨ha, hb, hr⟩ := s.hostWriteByte_cases a d <;> rw [hr]
  · exact .fault _
  · exact .fault _
  · exact .store a d h ha hb

theorem HostMove.of_hostWriteCmd {s : State} {v : Word} (h : nextWrites s 0 v) :
    HostMove s (s.hostWriteCmd v).retire := by
  obtain ⟨-, hr⟩ | ⟨h0, hbit, hr⟩ | ⟨-, -, hr⟩ := s.hostWriteCmd_cases v
  · rw [hr]
    exact .fault _
  · obtain rfl : v = 1#32 := by simpa [hbit] using cmd_values h0
    obtain ⟨-, hs⟩ | ⟨hb, hs⟩ := s.startDecode_cases <;> rw [hr, hs]
    · exact .fault _
    · exact .start h hb
  · rw [hr]
    exact .pass

theorem HostMove.of_hostWriteReg {s : State} {n : Nat} {v : Word} (h : nextWrites s n v) :
    HostMove s (s.hostWriteReg n v).retire := by
  obtain ⟨-, hr⟩ | ⟨-, -, hr⟩ | ⟨rfl, hr⟩ | ⟨-, hr⟩ | ⟨-, hr⟩ := s.hostWriteReg_cases n v <;> rw [hr]
  · exact .fault _
  · exact .fault _
  · exact .of_hostWriteCmd h
  · obtain ⟨-, hl⟩ | ⟨hv, hl⟩ := s.hostWriteLen_cases v <;> rw [hl]
    · exact .fault _
    · exact .setLen v hv
  · exact .setTsIn v

theorem HostMove.of_hostReadReg (s : State) (n : Nat) : HostMove s (s.hostReadReg n).retire := by
  obtain ⟨-, hr⟩ | ⟨-, -, -, hr⟩ | ⟨r, -, -, hr⟩ := s.hostReadReg_cases n <;> rw [hr]
  · exact .fault _
  · exact .fault _
  · exact .read _

theorem HostMove.of_emitLine (s : State) (verbose : Bool) : HostMove s (s.emitLine verbose).retire := by
  obtain ⟨-, hr⟩ | ⟨-, tokens, -, hr⟩ | ⟨-, -, hr⟩ := s.emitLine_cases verbose <;> rw [hr]
  · exact .fault _
  · exact .line tokens
  · exact .pass

theorem HostMove.of_hostStep {s t : State} (h : hostStep s = .next t) : HostMove s t := by
  obtain ⟨-, rfl⟩ | ⟨w, rest, a, d, hq, hd, rfl⟩ | ⟨w, rest, r, v, hq, hd, rfl⟩ | ⟨w, rest, r, -, -, rfl⟩ |
    ⟨w, rest, -, -, ⟨-, rfl⟩ | ⟨-, rfl⟩⟩ | ⟨rest, v, hq, rfl⟩ | ⟨rest, a, d, hq, rfl⟩ | ⟨rest, hq, rfl⟩ |
    ⟨rest, verbose, -, rfl⟩ := hostStep_next h
  · exact .hold
  · exact .of_hostWriteByte (.inl ⟨w, rest, a, hq, hd, rfl⟩)
  · exact .of_hostWriteReg (.inl ⟨w, rest, r, hq, hd, rfl⟩)
  · exact .of_hostReadReg s _
  · exact .pass
  · exact .hold
  · exact .of_hostWriteCmd (.inr ⟨rfl, rest, hq⟩)
  · exact .of_hostWriteByte (.inr ⟨rest, hq⟩)
  · exact .reset ⟨rest, hq⟩
  · exact .of_emitLine s verbose

/-- What one step does before the next turn is drawn: a move of the host, or the block's COMPLETE, which commits the
whole decode or records UnwrittenByte. -/
inductive Move (s : State) : State → Prop where
  | host {u : State} (mover : s.mover = .host) (move : HostMove s u) : Move s u
  | commit (mover : s.mover = .block) : Move s (doneWith s (wholeDecode s.byteAt s.lenL.toNat s.tsL))
  | unwritten (mover : s.mover = .block) : Move s s.completeUnwritten

theorem Move.of_blockStep {s t : State} (hm : s.mover = .block) (h : blockStep s = .next t) : Move s t := by
  rw [blockStep_eq_completeWith (State.mover_block hm)] at h
  cases h
  obtain ⟨-, hc⟩ | ⟨-, hc⟩ := s.completeWith_cases (readSet s.byteAt s.lenL.toNat)
    (doneWith s (wholeDecode s.byteAt s.lenL.toNat s.tsL)) <;> rw [hc]
  · exact .commit hm
  · exact .unwritten hm

theorem step_eq_of_host {s : State} (h : s.mover = .host) : step s = afterMove (hostStep s) := by
  simp [step, moveAgents, h]

theorem step_eq_of_block {s : State} (h : s.mover = .block) : step s = afterMove (blockStep s) := by
  simp [step, moveAgents, h]

/-- Everything a step of the machine can do. -/
theorem step_next {s t : State} (h : step s = .next t) : ∃ u, Move s u ∧ t = u.drawTurn := by
  cases hm : s.mover with
  | host =>
    rw [step_eq_of_host hm] at h
    obtain ⟨u, hu, rfl⟩ := afterMove_next h
    exact ⟨u, .host hm (.of_hostStep hu), rfl⟩
  | block =>
    rw [step_eq_of_block hm] at h
    obtain ⟨u, hu, rfl⟩ := afterMove_next h
    exact ⟨u, .of_blockStep hm hu, rfl⟩

/-! ### The results of a decode are an error's or a success's (R206) -/

/-- The class whose header a transport tuple holds. -/
def Transport.cls : Transport → TransportClass
  | .tcp _ _ _ _ _ _ _ => .tcp
  | .udp _ _ _ => .udp
  | .icmp _ _ => .icmp
  | .other => .other

theorem cls_transportOf (B : Nat → Byte) (t : Nat) (c : TransportClass) : (transportOf B t c).cls = c := by
  cases c <;> rfl

/-- HDR_BYTES holds every header length: 15 words are 60 bytes (R35). -/
theorem hdrBytes_toNat (ihl : BitVec 4) : (BitVec.ofNat 6 (hdrBytesOf ihl)).toNat = ihl.toNat * 4 := by
  simp only [hdrBytesOf, BitVec.toNat_ofNat]
  omega

/-- commit_ok of a header of 5 words or more and the transport header of its protocol writes a success. -/
theorem Results.ofPacket_ofSuccess (B : Nat → Byte) {ihl : BitVec 4} {tr : Transport} (ts : Word)
    (h5 : 5 ≤ ihl.toNat) (htr : tr.cls = classOf (B 9)) :
    (Results.ofPacket (ipHeaderOf B ihl) tr ts).ofSuccess where
  err := rfl
  version := rfl
  ihl := h5
  hdrBytes := hdrBytes_toNat ihl
  cls := rfl
  protoKnown := rfl
  ports htcp hudp := by
    cases tr
    case tcp => exact absurd htr.symm htcp
    case udp => exact absurd htr.symm hudp
    all_goals exact ⟨rfl, rfl⟩
  tcp htcp := by
    cases tr
    case tcp => exact absurd htr.symm htcp
    all_goals exact ⟨rfl, rfl, rfl, rfl, rfl⟩
  udp hudp := by
    cases tr
    case udp => exact absurd htr.symm hudp
    all_goals rfl
  icmp hicmp := by
    cases tr
    case icmp => exact absurd htr.symm hicmp
    all_goals exact ⟨rfl, rfl⟩

theorem Results.ofError_onlyErr (e : ErrCode) : (Results.ofError e).onlyErr := rfl

theorem wholeDecode_onlyErr_or_ofSuccess (B : Nat → Byte) (L : Nat) (T : Word) :
    (wholeDecode B L T).onlyErr ∨ (wholeDecode B L T).ofSuccess := by
  by_cases hL : L < 20
  · rw [wholeDecode_short B T hL]
    exact .inl (Results.ofError_onlyErr _)
  cases hp : headerPath L (B 0) with
  | some i =>
    obtain ⟨-, e, hw, -⟩ := headerPath_rejects (by omega) hp
    rw [hw]
    exact .inl (Results.ofError_onlyErr e)
  | none =>
    obtain ⟨-, h5, -⟩ := headerPath_eq_none hp
    rw [wholeDecode_accepted T (by omega) hp]
    split
    · exact .inl (Results.ofError_onlyErr _)
    · exact .inr (Results.ofPacket_ofSuccess B T h5 (cls_transportOf _ _ _))

/-! ### The invariant -/

/-- The invariant speaks of the buffer, LEN, LEN_L, the results and PHASE only. -/
theorem State.Inv.frame {s t : State} (h : s.Inv) (hbuffer : t.buffer = s.buffer) (hlen : t.len = s.len)
    (hlenL : t.lenL = s.lenL) (hresults : t.results = s.results) (hphase : t.phase = s.phase) : t.Inv where
  wf := hbuffer ▸ h.wf
  below := hbuffer ▸ h.below
  len := hlen ▸ h.len
  lenL := hlenL ▸ h.lenL
  results := hresults ▸ h.results
  idle := by
    rw [hphase, hresults]
    exact h.idle

/-- A block that has just been reset meets the invariant, whatever its host-fault record and its host. -/
theorem State.assertReset_inv (s : State) : s.assertReset.Inv where
  wf := rfl
  below := rfl
  len := Nat.zero_le _
  lenL := Nat.zero_le _
  results := .inl rfl
  idle _ := rfl

/-- Settles O41: power-up is a reset with nothing recorded. -/
theorem resetMeetsTheInvariant : Obligations.ResetMeetsTheInvariant := State.reset.assertReset_inv

theorem HostMove.inv {s u : State} (hs : s.Inv) (h : HostMove s u) : u.Inv := by
  cases h with
  | hold => exact hs
  | store a d _ inRange _ =>
    exact { hs with wf := s.buffer.wf_write a d hs.wf, below := s.buffer.below_write _ a d hs.below inRange }
  | setLen v legal => exact { hs with len := legal }
  | start _ _ => exact { hs with lenL := hs.len, idle := nofun }
  | reset _ => exact s.assertReset_inv.frame rfl rfl rfl rfl rfl
  | pass => exact hs.frame rfl rfl rfl rfl rfl
  | fault f => exact hs.frame rfl rfl rfl rfl rfl
  | setTsIn v => exact hs.frame rfl rfl rfl rfl rfl
  | read v => exact hs.frame rfl rfl rfl rfl rfl
  | line tokens => exact hs.frame rfl rfl rfl rfl rfl

theorem Move.inv {s u : State} (hs : s.Inv) (h : Move s u) : u.Inv := by
  cases h with
  | host _ move => exact move.inv hs
  | commit _ => exact { hs with results := wholeDecode_onlyErr_or_ofSuccess _ _ _, idle := nofun }
  | unwritten _ => exact { hs with idle := nofun }

/-- Settles O40: every move of either agent keeps the invariant, and drawing the turn touches none of its fields. -/
theorem everyStepKeepsTheInvariant : Obligations.EveryStepKeepsTheInvariant := by
  intro s t hs h
  obtain ⟨u, hu, rfl⟩ := step_next h
  exact (hu.inv hs).frame rfl rfl rfl rfl rfl

/-! ### When results, PHASE, latches and the host-fault record change -/

theorem HostMove.results_eq_or_reset {s u : State} (h : HostMove s u) :
    u.results = s.results ∨ (nextResets s ∧ u.results = Results.zero) := by
  cases h with
  | reset resets => exact .inr ⟨resets, rfl⟩
  | _ => exact .inl rfl

/-- Settles O42: of the host's moves only the reset input writes the results. -/
theorem resultsChangeOnlyAtCompletionAndReset : Obligations.ResultsChangeOnlyAtCompletionAndReset := by
  intro s t h hne
  obtain ⟨u, hu, rfl⟩ := step_next h
  cases hu with
  | host _ move => exact .inr (move.results_eq_or_reset.resolve_left hne)
  | commit mover => exact .inl ⟨mover, rfl⟩
  | unwritten mover => exact .inl ⟨mover, rfl⟩

theorem HostMove.phase_eq_or {s u : State} (h : HostMove s u) :
    u.phase = s.phase ∨ (u.phase = .busy ∧ nextWrites s 0 1#32) ∨ (u.phase = .idle ∧ nextResets s) := by
  cases h with
  | start writes _ => exact .inr (.inl ⟨rfl, writes⟩)
  | reset resets => exact .inr (.inr ⟨rfl, resets⟩)
  | _ => exact .inl rfl

/-- Settles O43: the host's moves change PHASE by START and reset, the block's by completion. -/
theorem phaseMovesOnlyAlongItsTransitions : Obligations.PhaseMovesOnlyAlongItsTransitions := by
  intro s t h hne
  obtain ⟨u, hu, rfl⟩ := step_next h
  cases hu with
  | host mover move =>
    obtain ⟨hp, writes⟩ | ⟨hp, resets⟩ := move.phase_eq_or.resolve_left hne
    · exact .inl ⟨hp, mover, writes⟩
    · exact .inr (.inr ⟨hp, mover, resets⟩)
  | commit mover => exact .inr (.inl ⟨State.mover_block mover, rfl, mover⟩)
  | unwritten mover => exact .inr (.inl ⟨State.mover_block mover, rfl, mover⟩)

theorem HostMove.latches_eq_or {s u : State} (h : HostMove s u) :
    (u.lenL = s.lenL ∧ u.tsL = s.tsL) ∨
    (nextWrites s 0 1#32 ∧ s.phase ≠ .busy ∧ u.lenL = s.len ∧ u.tsL = s.tsIn) ∨
    (nextResets s ∧ u.lenL = 0#32 ∧ u.tsL = 0#32) := by
  cases h with
  | start writes free => exact .inr (.inl ⟨writes, free, rfl, rfl⟩)
  | reset resets => exact .inr (.inr ⟨resets, rfl, rfl⟩)
  | _ => exact .inl ⟨rfl, rfl⟩

/-- Settles O44: the block's moves write no latch, and the host's only by START and reset. -/
theorem latchesChangeOnlyAtStartAndReset : Obligations.LatchesChangeOnlyAtStartAndReset := by
  intro s t h hne
  obtain ⟨u, hu, rfl⟩ := step_next h
  have hsame : ¬ (u.lenL = s.lenL ∧ u.tsL = s.tsL) := not_and_or.2 hne
  cases hu with
  | host _ move => exact move.latches_eq_or.resolve_left hsame
  | commit _ => exact absurd ⟨rfl, rfl⟩ hsame
  | unwritten _ => exact absurd ⟨rfl, rfl⟩ hsame

theorem FaultRecord.has_record_of_has {r : FaultRecord} {f : HostFault} (g : HostFault) (h : r.has f = true) :
    (r.record g).has f = true := by
  simp [FaultRecord.has_record, h]

theorem HostMove.keeps_faults {s u : State} {f : HostFault} (h : HostMove s u) (hf : s.hostFaults.has f = true) :
    u.hostFaults.has f = true := by
  cases h with
  | fault g => exact FaultRecord.has_record_of_has g hf
  | _ => exact hf

/-- Settles O46: a move leaves the record or adds one reason, and reset leaves it (R48). -/
theorem hostFaultsAreNeverRemoved : Obligations.HostFaultsAreNeverRemoved := by
  intro s t f h hf
  obtain ⟨u, hu, rfl⟩ := step_next h
  cases hu with
  | host _ move => exact move.keeps_faults hf
  | commit _ => exact hf
  | unwritten _ => exact FaultRecord.has_record_of_has _ hf

/-! ### The register file (R20, R21) -/

/-- A read zero-extends a field of the register's own width. -/
theorem State.readReg_zext (s : State) (r : Reg) : ∃ v : BitVec (regWidth r), s.readReg r = v.setWidth 32 := by
  cases r
  case cmd => exact ⟨0#32, rfl⟩
  case len => exact ⟨s.len, s.len.setWidth_eq.symm⟩
  case tsIn => exact ⟨s.tsIn, s.tsIn.setWidth_eq.symm⟩
  case srcAddr => exact ⟨s.results.srcAddr, (BitVec.setWidth_eq _).symm⟩
  case dstAddr => exact ⟨s.results.dstAddr, (BitVec.setWidth_eq _).symm⟩
  case tcpSeq => exact ⟨s.results.tcpSeq, (BitVec.setWidth_eq _).symm⟩
  case tcpAck => exact ⟨s.results.tcpAck, (BitVec.setWidth_eq _).symm⟩
  case tsOut => exact ⟨s.results.tsOut, (BitVec.setWidth_eq _).symm⟩
  all_goals exact ⟨_, rfl⟩

/-- Settles O34: zero-extension keeps the value below the field's bound. -/
theorem registerValuesFitTheirWidths : Obligations.RegisterValuesFitTheirWidths := by
  intro s r
  obtain ⟨v, hv⟩ := s.readReg_zext r
  rw [hv, BitVec.toNat_setWidth]
  exact (Nat.mod_le _ _).trans_lt v.isLt

/-- Settles O35: the table has 34 entries, and the two lists are its registers and their widths. -/
theorem registerNumbersAreTheTable : Obligations.RegisterNumbersAreTheTable :=
  ⟨fun _ => regOf_none, by decide, by decide⟩

theorem State.readReg_phase {s : State} {p : Phase} (h : s.phase = p) :
    s.readReg .phase = (phaseCode p).setWidth 32 := h ▸ rfl

theorem State.readReg_err {s : State} {e : ErrCode} (h : s.results.err = e) :
    s.readReg .err = (errCode e).setWidth 32 := h ▸ rfl

theorem State.readReg_cls {s : State} {c : TransportClass} (h : s.results.cls = c) :
    s.readReg .cls = (classCode c).setWidth 32 := h ▸ rfl

/-- Settles O36: PHASE, ERR and CLASS read as their codes, every other register as its own field. -/
theorem registersReadTheirFields : Obligations.RegistersReadTheirFields := by
  intro s
  refine ⟨rfl, rfl, rfl, State.readReg_phase, State.readReg_phase, State.readReg_phase,
    State.readReg_err, State.readReg_err, State.readReg_err, State.readReg_err,
    State.readReg_cls, State.readReg_cls, State.readReg_cls, State.readReg_cls, ?_⟩
  and_intros
  all_goals rfl

/-! ### Reset (R47) -/

theorem State.readReg_assertReset (s : State) (r : Reg) : s.assertReset.readReg r = 0#32 := by
  cases r <;> rfl

/-- Settles O48: the host's step is the reset input's operation, which clears every register and the buffer. -/
theorem resetInputClearsTheBlock : Obligations.ResetInputClearsTheBlock := by
  intro s rest hm hq
  have hstep : step s = .next s.assertReset.retire.drawTurn := by
    rw [step_eq_of_host hm, hostStep, hq]
    rfl
  exact ⟨_, hstep, rfl, s.readReg_assertReset, rfl, rfl, fun _ => rfl, rfl, congrArg List.tail hq⟩

/-- Settles O49: power-up is a reset with nothing recorded. -/
theorem resetStateIsTheSpecs : Obligations.ResetStateIsTheSpecs :=
  ⟨rfl, State.reset.readReg_assertReset, rfl, rfl, fun _ => rfl, FaultRecord.has_empty⟩

end Sys2Proof.Machine
end

section
/-! ## The packet buffer: what a decode reads and leaves, who writes it, and the instruction a step runs -/

namespace Sys2Proof.Machine
open Sys2Proof.Claims

/-! ### Reads lie within the packet (R56) -/

/-- Settles O16: a reject path reads byte 0, and an accepted header and its transport part fit in LEN_L. -/
theorem decodeReadsOnlyBelowLength : Obligations.DecodeReadsOnlyBelowLength := by
  intro B L a ha
  by_cases hL : L < 20
  · rw [readSet_short B hL] at ha
    cases ha
  have hL' : 20 ≤ L := by omega
  cases hp : headerPath L (B 0) with
  | some i =>
    rw [(headerPath_rejects hL' hp).1, List.mem_singleton] at ha
    omega
  | none =>
    obtain ⟨-, -, hl⟩ := headerPath_eq_none hp
    rw [readSet_accepted hL' hp] at ha
    split at ha
    · rw [mem_headerReads] at ha
      omega
    · rw [List.mem_append, mem_headerReads, mem_transportReads] at ha
      omega

/-! ### The frame of the decode paths (R55, R206, R209) -/

/-- A decode path executes exactly where COMPLETE selects it. -/
theorem exec_decodePath {i : Instr} (hi : isDecodePath i = true) (s : State) :
    ∃ after, exec i s = s.onPath i after := by
  cases i
  case start | cmdNop | cmdReserved | wbuf | wreg | rreg | wait => cases hi
  all_goals exact ⟨_, rfl⟩

/-- A decode path that answers a next state is the block's step, in a BUSY block. -/
theorem blockStep_of_decodePath {i : Instr} {s t : State} (hi : isDecodePath i = true) (h : exec i s = .next t) :
    s.phase = .busy ∧ blockStep s = .next t := by
  obtain ⟨after, hx⟩ := exec_decodePath hi s
  obtain ⟨hb, hp, -⟩ := State.onPath_next (hx.symm.trans h)
  exact ⟨hb, (blockStep_of_pathTaken hp).trans h⟩

/-- Everything COMPLETE can do: commit the whole decode, or record UnwrittenByte. -/
theorem blockStep_next {s t : State} (hb : s.phase = .busy) (h : blockStep s = .next t) :
    t = doneWith s (wholeDecode s.byteAt s.lenL.toNat s.tsL) ∨ t = s.completeUnwritten := by
  rw [blockStep_eq_completeWith hb] at h
  cases h
  exact (s.completeWith_cases _ _).imp And.right And.right

/-- The one host fault a decode path can record. -/
theorem ownFaults_decodePath {i : Instr} (hi : isDecodePath i = true) : ownFaults i = [.unwrittenByte] := by
  cases i
  case start | cmdNop | cmdReserved | wbuf | wreg | rreg | wait => cases hi
  all_goals rfl

theorem FaultRecord.has_record_other (r : FaultRecord) {f g : HostFault} (h : f ≠ g) :
    (r.record g).has f = r.has f := by
  simp [FaultRecord.has_record, h]

/-- Settles O38: a path is the block's step, which writes the results and PHASE, or UnwrittenByte and PHASE. -/
theorem decodePathsFrame : Obligations.DecodePathsFrame := by
  intro i s t hi h
  obtain ⟨hb, hstep⟩ := blockStep_of_decodePath hi h
  obtain rfl | rfl := blockStep_next hb hstep
  · exact ⟨rfl, rfl, rfl, rfl, rfl, rfl, rfl, rfl, rfl, fun _ => rfl, fun _ _ => rfl, .inl rfl⟩
  · refine ⟨rfl, rfl, rfl, rfl, rfl, rfl, rfl, rfl, rfl, fun _ => rfl, fun f hf => ?_, .inr rfl⟩
    rw [ownFaults_decodePath hi, List.mem_singleton] at hf
    exact FaultRecord.has_record_other _ hf

/-! ### Host writes to the buffer (R172) -/

theorem State.byte_setBuffer_write (s : State) (a : Nat) (d : Byte) (b : Nat) :
    (s.setBuffer (s.buffer.write a d)).byte? b = if b = a then some d else s.byte? b := by
  split
  · subst b
    exact s.buffer.read_write_same a d
  · exact s.buffer.read_write_other d ‹_›

/-- A host byte write, and the host going on: a fault recorded, or one byte stored at its own address. -/
theorem State.retire_hostWriteByte (s : State) (a : Nat) (d : Byte) :
    ∃ t, (s.hostWriteByte a d).retire = t ∧
      (if Config.bufLenMax ≤ a then t = faulted s .bufOutOfRange
       else if s.phase = .busy then t = faulted s .bufWriteWhileBusy
       else t = { s with buffer := t.buffer, hostQueue := s.hostQueue.tail } ∧
         ∀ b : Nat, t.byte? b = if b = a then some d else s.byte? b) := by
  refine ⟨_, rfl, ?_⟩
  obtain ⟨ha, hr⟩ | ⟨ha, hb, hr⟩ | ⟨ha, hb, hr⟩ := s.hostWriteByte_cases a d <;> rw [hr]
  · rw [if_pos ha]
    rfl
  · rw [if_neg (Nat.not_le.2 ha), if_pos hb]
    rfl
  · rw [if_neg (Nat.not_le.2 ha), if_neg hb]
    exact ⟨rfl, s.byte_setBuffer_write a d⟩

theorem hostStep_byteWrite {s : State} {a : Nat} {d : Byte} {rest : List HostEvent}
    (h : s.hostQueue = .byteWrite a d :: rest) : hostStep s = .next (s.hostWriteByte a d).retire := by
  rw [hostStep, h]

/-- WBUF at an address that 24 bits hold writes that address. -/
theorem exec_wbuf_ofNat (s : State) {a : Nat} (d : Byte) (ha : a < 2 ^ 24) :
    exec (.wbuf (BitVec.ofNat 24 a) d) s = .next (s.hostWriteByte a d).retire := by
  rw [exec, execWbuf, BitVec.toNat_ofNat, Nat.mod_eq_of_lt ha]

/-- Settles O58: the event is the host's byte write at a natural address, and WBUF is the same write. -/
theorem hostWritesReachEveryAddress : Obligations.HostWritesReachEveryAddress := by
  intro s a d rest hq
  rw [hostStep_byteWrite hq]
  obtain ⟨_, rfl, hwrite⟩ := s.retire_hostWriteByte a d
  refine ⟨⟨_, rfl, hwrite⟩, fun hm => ?_, fun ha => (exec_wbuf_ofNat s d ha).symm⟩
  rw [step_eq_of_host hm, hostStep_byteWrite hq]

/-! ### When a buffer byte changes (R55, R235) -/

/-- Of the host's moves only a byte write stores and only reset erases. -/
theorem HostMove.byte_eq_or {s u : State} (h : HostMove s u) (b : Nat) :
    u.byte? b = s.byte? b ∨
    (s.phase ≠ .busy ∧ b < Config.bufLenMax ∧ ∃ d, nextStores s b d ∧ u.byte? b = some d) ∨
    (nextResets s ∧ u.byte? b = none) := by
  cases h with
  | store a d stores inRange free =>
    have hbyte := s.byte_setBuffer_write a d b
    by_cases hba : b = a
    · subst b
      exact .inr (.inl ⟨free, inRange, d, stores, by simpa using hbyte⟩)
    · exact .inl (by simpa [hba] using hbyte)
  | reset resets => exact .inr (.inr ⟨resets, rfl⟩)
  | _ => exact .inl rfl

/-- Settles O45: the block's moves leave the buffer, and the host's change a byte only by storing it or by reset. -/
theorem bufferChangesOnlyByHostWrites : Obligations.BufferChangesOnlyByHostWrites := by
  intro s t b h hne
  obtain ⟨u, hu, rfl⟩ := step_next h
  cases hu with
  | host mover move => exact ((move.byte_eq_or b).resolve_left hne).imp (⟨mover, ·⟩) (⟨mover, ·⟩)
  | commit _ => exact absurd rfl hne
  | unwritten _ => exact absurd rfl hne

/-! ### The instruction a step runs (R63, R82, R180) -/

theorem hostStep_word {s : State} {w : HostWord} {rest : List HostEvent} {i : Instr}
    (hq : s.hostQueue = .word w :: rest) (hd : decodeHostWord w = .ok i) : hostStep s = exec i s := by
  simp [hostStep, hq, hd]

theorem hostStep_cmd {s : State} {v : Word} {rest : List HostEvent} (hq : s.hostQueue = .cmd v :: rest) :
    hostStep s = exec (decodeCmd v) s := by
  simp [hostStep, hq]

theorem hostStep_nil {s : State} (hq : s.hostQueue = []) : hostStep s = .next s := by
  simp [hostStep, hq]

/-- The host moves whenever no decode is in progress (R180). -/
theorem State.mover_eq_host {s : State} (h : s.phase ≠ .busy) : s.mover = .host := by
  cases hm : s.mover with
  | host => rfl
  | block => exact absurd (State.mover_block hm) h

/-- With both key bytes written the selected path is the decoder's. -/
theorem selectPath_eq_decodeKey (len : Nat) (b0 b9 : Byte) :
    selectPath len (some b0) (some b9) = some (decodeKey len (b0 ++ b9)) := by
  have h0 : (b0 ++ b9 : Key).extractLsb' 8 8 = b0 := BitVec.extractLsb'_append_eq_left
  have h9 : (b0 ++ b9 : Key).extractLsb' 0 8 = b9 := BitVec.extractLsb'_append_eq_right
  rw [decodeKey, h0, h9]
  by_cases hL : len < 20
  · rw [selectPath_short _ _ hL, if_pos hL]
  rw [if_neg hL]
  cases hp : headerPath len b0 with
  | some i => exact selectPath_rejected _ (by omega) hp
  | none => exact selectPath_accepted _ (by omega) hp

theorem step_of_pathTaken {s : State} {i : Instr} (hm : s.mover = .block) (hp : s.pathTaken = some i) :
    step s = afterMove (exec i s) := by
  rw [step_eq_of_block hm, blockStep_of_pathTaken hp]

/-- Settles O39: the mover's step is the meaning of the instruction its queue or its packet spells. -/
theorem stepRunsTheDecodedInstruction : Obligations.StepRunsTheDecodedInstruction := by
  refine ⟨fun s w rest i hm hq hd => ?_, fun s v rest hm hq => ?_, fun s => step_eq_of_block,
    fun s i => step_of_pathTaken, fun s b0 b9 hm h0 h9 => ?_, fun s hq hb => ?_, fun t => rfl⟩
  · rw [step_eq_of_host hm, hostStep_word hq hd]
  · rw [step_eq_of_host hm, hostStep_cmd hq]
  · exact step_of_pathTaken hm (by rw [State.pathTaken, h0, h9, selectPath_eq_decodeKey])
  · rw [step_eq_of_host (State.mover_eq_host hb), hostStep_nil hq]

end Sys2Proof.Machine
end

section
/-! ## The three encodings: one meaning for each word, and one word for each instruction -/

namespace Sys2Proof
open Sys2Proof.Machine Sys2Proof.Claims

/-! ### The fields of a dispatch key (R82) -/

/-- A dispatch key is the encoding of its three fields. -/
theorem encodeKey_fields (key : Key) :
    encodeKey (key.extractLsb' 12 4) (key.extractLsb' 8 4) (key.extractLsb' 0 8) = key := by
  rw [encodeKey, BitVec.extractLsb'_append_extractLsb'_eq_extractLsb' (by decide),
    BitVec.extractLsb'_append_extractLsb'_eq_extractLsb' (by decide), BitVec.extractLsb'_eq_self]

@[simp] theorem encodeKey_extract_version (version ihl : BitVec 4) (proto : Byte) :
    (encodeKey version ihl proto).extractLsb' 12 4 = version := by
  rw [encodeKey, BitVec.extractLsb'_append_eq_of_le (by decide), BitVec.extractLsb'_append_eq_left]

@[simp] theorem encodeKey_extract_ihl (version ihl : BitVec 4) (proto : Byte) :
    (encodeKey version ihl proto).extractLsb' 8 4 = ihl := by
  rw [encodeKey, BitVec.extractLsb'_append_eq_of_le (by decide), BitVec.extractLsb'_append_eq_right]

theorem encodeKey_inj {v ihl v' ihl' : BitVec 4} {p p' : Byte} :
    encodeKey v ihl p = encodeKey v' ihl' p' ↔ v = v' ∧ ihl = ihl' ∧ p = p' := by
  constructor
  · intro h
    refine ⟨?_, ?_, ?_⟩
    · simpa only [encodeKey_extract_version] using congrArg (·.extractLsb' 12 4) h
    · simpa only [encodeKey_extract_ihl] using congrArg (·.extractLsb' 8 4) h
    · simpa only [encodeKey_low] using congrArg (·.extractLsb' 0 8) h
  · rintro ⟨rfl, rfl, rfl⟩
    rfl

/-- A row's mask and match compare a key field by field. -/
theorem encodeKey_and_eq_iff (v ihl : BitVec 4) (p : Byte) (mv mi : BitVec 4) (mp : Byte) (v' ihl' : BitVec 4)
    (p' : Byte) : encodeKey v ihl p &&& encodeKey mv mi mp = encodeKey v' ihl' p' ↔
      v &&& mv = v' ∧ ihl &&& mi = ihl' ∧ p &&& mp = p' := by
  have h : encodeKey v ihl p &&& encodeKey mv mi mp = encodeKey (v &&& mv) (ihl &&& mi) (p &&& mp) :=
    BitVec.and_append.trans (congrArg (· ++ (p &&& mp)) BitVec.and_append)
  rw [h, encodeKey_inj]

/-! ### The masks of the opcode table's decode rows (R82) -/

theorem and_nibbleMask (x : BitVec 4) : x &&& 0xF#4 = x := BitVec.and_allOnes

theorem and_byteMask (x : Byte) : x &&& 0xFF#8 = x := BitVec.and_allOnes

/-- MALFORMED_IHL_0_3 asks that the upper two bits of the IHL be 0. -/
theorem and_ihl03Mask (ihl : BitVec 4) : ihl &&& 0xC#4 = 0#4 ↔ ihl.toNat < 4 := by
  revert ihl; decide

theorem encodeKey_in_version4Row (v ihl : BitVec 4) (p : Byte) :
    encodeKey v ihl p &&& 0xF000#16 = 0x4000#16 ↔ v = 4#4 :=
  (encodeKey_and_eq_iff v ihl p 0xF#4 0#4 0#8 4#4 0#4 0#8).trans (by simp [and_nibbleMask])

theorem encodeKey_in_ihl03Row (v ihl : BitVec 4) (p : Byte) :
    encodeKey v ihl p &&& 0xFC00#16 = 0x4000#16 ↔ v = 4#4 ∧ ihl.toNat < 4 :=
  (encodeKey_and_eq_iff v ihl p 0xF#4 0xC#4 0#8 4#4 0#4 0#8).trans (by simp [and_nibbleMask, and_ihl03Mask])

theorem encodeKey_in_ihl4Row (v ihl : BitVec 4) (p : Byte) :
    encodeKey v ihl p &&& 0xFF00#16 = 0x4400#16 ↔ v = 4#4 ∧ ihl = 4#4 :=
  (encodeKey_and_eq_iff v ihl p 0xF#4 0xF#4 0#8 4#4 4#4 0#8).trans (by simp [and_nibbleMask])

/-- The mask of the three rows with a protocol number of their own. -/
theorem encodeKey_in_protoRow (v ihl : BitVec 4) (p proto : Byte) :
    encodeKey v ihl p &&& 0xF0FF#16 = encodeKey 4#4 0#4 proto ↔ v = 4#4 ∧ p = proto :=
  (encodeKey_and_eq_iff v ihl p 0xF#4 0#4 0xFF#8 4#4 0#4 proto).trans (by simp [and_nibbleMask, and_byteMask])

theorem encodeKey_in_tcpRow (v ihl : BitVec 4) (p : Byte) :
    encodeKey v ihl p &&& 0xF0FF#16 = 0x4006#16 ↔ v = 4#4 ∧ p = 6#8 := encodeKey_in_protoRow v ihl p 6#8

theorem encodeKey_in_udpRow (v ihl : BitVec 4) (p : Byte) :
    encodeKey v ihl p &&& 0xF0FF#16 = 0x4011#16 ↔ v = 4#4 ∧ p = 17#8 := encodeKey_in_protoRow v ihl p 17#8

theorem encodeKey_in_icmpRow (v ihl : BitVec 4) (p : Byte) :
    encodeKey v ihl p &&& 0xF0FF#16 = 0x4001#16 ↔ v = 4#4 ∧ p = 1#8 := encodeKey_in_protoRow v ihl p 1#8

/-! ### The path of a dispatch key (R83) -/

/-- The path a dispatch key's fields select in a packet of `len` bytes, the last four lines of R83 as one case. -/
inductive KeyPath (len : Nat) : BitVec 4 → BitVec 4 → Byte → Instr → Prop where
  | ipTruncated {v ihl : BitVec 4} {p : Byte} (short : len < 20) : KeyPath len v ihl p .ipTruncated
  | unsupportedVersion {v ihl : BitVec 4} {p : Byte} (long : 20 ≤ len) (version : v ≠ 4#4) :
      KeyPath len v ihl p (.unsupportedVersion v)
  | malformedIhl03 {ihl : BitVec 4} {p : Byte} (long : 20 ≤ len) (low : ihl.toNat < 4) :
      KeyPath len 4#4 ihl p (.malformedIhl03 ihl)
  | malformedIhl4 {p : Byte} (long : 20 ≤ len) : KeyPath len 4#4 4#4 p .malformedIhl4
  | malformedOverlength {ihl : BitVec 4} {p : Byte} (long : 20 ≤ len) (high : 5 ≤ ihl.toNat)
      (overlong : len < hdrBytesOf ihl) : KeyPath len 4#4 ihl p (.malformedOverlength ihl)
  | transport {ihl : BitVec 4} {p : Byte} (long : 20 ≤ len) (high : 5 ≤ ihl.toNat) (fits : hdrBytesOf ihl ≤ len) :
      KeyPath len 4#4 ihl p (transportPath ihl p)

theorem decodeKey_short {len : Nat} (key : Key) (h : len < 20) : decodeKey len key = .ipTruncated := if_pos h

theorem decodeKey_encodeKey {len : Nat} (v ihl : BitVec 4) (p : Byte) (h : 20 ≤ len) :
    decodeKey len (encodeKey v ihl p) = (headerPath len (v ++ ihl)).getD (transportPath ihl p) := by
  rw [decodeKey, if_neg (by omega), encodeKey_high, encodeKey_low, ihlOf_append]

theorem ne_four_of_high {ihl : BitVec 4} (h : 5 ≤ ihl.toNat) : ihl ≠ 4#4 := by
  rintro rfl
  exact absurd h (by decide)

/-- Every key selects a path. -/
theorem exists_keyPath (len : Nat) (v ihl : BitVec 4) (p : Byte) : ∃ i, KeyPath len v ihl p i := by
  by_cases hL : len < 20
  · exact ⟨_, .ipTruncated hL⟩
  have long : 20 ≤ len := by omega
  by_cases hv : v = 4#4
  case neg => exact ⟨_, .unsupportedVersion long hv⟩
  subst hv
  by_cases h3 : ihl.toNat < 4
  · exact ⟨_, .malformedIhl03 long h3⟩
  by_cases h4 : ihl = 4#4
  · subst h4
    exact ⟨_, .malformedIhl4 long⟩
  have h5 : 5 ≤ ihl.toNat := by
    have : ihl.toNat ≠ 4 := fun h => h4 (BitVec.eq_of_toNat_eq h)
    omega
  by_cases hl : len < hdrBytesOf ihl
  · exact ⟨_, .malformedOverlength long h5 hl⟩
  exact ⟨_, .transport long h5 (by omega)⟩

theorem transportPath_other {p : Byte} (ihl : BitVec 4) (h : p ≠ 1#8 ∧ p ≠ 6#8 ∧ p ≠ 17#8) :
    transportPath ihl p = .decodeOther ihl p := by
  obtain ⟨h1, h6, h17⟩ := h
  simp [transportPath, classOf, h1, h6, h17]

/-- The decoder gives the path that the key's fields select. -/
theorem KeyPath.decodeKey_eq {len : Nat} {v ihl : BitVec 4} {p : Byte} {i : Instr} (h : KeyPath len v ihl p i) :
    decodeKey len (encodeKey v ihl p) = i := by
  cases h with
  | ipTruncated short => exact decodeKey_short _ short
  | unsupportedVersion long version =>
    simp [decodeKey_encodeKey _ _ _ long, headerPath, versionOf_append, version]
  | malformedIhl03 long low =>
    simp [decodeKey_encodeKey _ _ _ long, headerPath, versionOf_append, ihlOf_append, low]
  | malformedIhl4 long => rw [decodeKey_encodeKey _ _ _ long]; rfl
  | malformedOverlength long high overlong =>
    simp [decodeKey_encodeKey _ _ _ long, headerPath, versionOf_append, ihlOf_append, ne_four_of_high high,
      show ¬ ihl.toNat < 4 by omega, overlong]
  | transport long high fits =>
    simp [decodeKey_encodeKey _ _ _ long, headerPath, versionOf_append, ihlOf_append, ne_four_of_high high,
      show ¬ ihl.toNat < 4 by omega, Nat.not_lt.2 fits]

/-- The opcode table gives the path that the key's fields select. -/
theorem KeyPath.tablePath_eq {len : Nat} {v ihl : BitVec 4} {p : Byte} {i : Instr} (h : KeyPath len v ihl p i) :
    tablePath len (encodeKey v ihl p) = some i := by
  simp only [tablePath, pathTable, List.find?_cons, PathRow.holds, headerFits, BitVec.and_zero,
    encodeKey_in_version4Row, encodeKey_in_ihl03Row, encodeKey_in_ihl4Row, encodeKey_in_tcpRow, encodeKey_in_udpRow,
    encodeKey_in_icmpRow, encodeKey_extract_version, encodeKey_extract_ihl, encodeKey_low, decide_true, Bool.true_and]
  cases h with
  | ipTruncated short => simp [short]
  | unsupportedVersion long version => simp [long, version, Nat.not_lt.2 long]
  | malformedIhl03 long low => simp [long, low, Nat.not_lt.2 long]
  | malformedIhl4 long => simp [long, Nat.not_lt.2 long]
  | malformedOverlength long high overlong =>
    simp [long, Nat.not_lt.2 long, high, ne_four_of_high high, show ¬ ihl.toNat < 4 by omega,
      show len < ihl.toNat * 4 from overlong]
  | transport long high fits =>
    have hl : ihl.toNat * 4 ≤ len := fits
    obtain ⟨rfl, hc⟩ | ⟨rfl, hc⟩ | ⟨rfl, hc⟩ | ⟨h6, h17, h1, hc⟩ := classOf_cases p
    all_goals
      simp [Nat.not_lt.2 long, Nat.not_lt.2 hl, ne_four_of_high high, show ¬ ihl.toNat < 4 by omega, transportPath,
        encodeKey_low, *]

/-- A path that a key's fields select is well-formed, and its row admits the packet's length. -/
theorem KeyPath.wellFormed_lenGuard {len : Nat} {v ihl : BitVec 4} {p : Byte} {i : Instr} (h : KeyPath len v ihl p i) :
    i.wellFormed = true ∧ i.lenGuard len = true := by
  cases h with
  | ipTruncated short => exact ⟨rfl, decide_eq_true short⟩
  | unsupportedVersion long version => exact ⟨decide_eq_true version, decide_eq_true long⟩
  | malformedIhl03 long low => exact ⟨decide_eq_true low, decide_eq_true long⟩
  | malformedIhl4 long => exact ⟨rfl, decide_eq_true long⟩
  | malformedOverlength long high overlong => exact ⟨decide_eq_true high, decide_eq_true ⟨long, overlong⟩⟩
  | transport long high fits =>
    obtain ⟨rfl, -⟩ | ⟨rfl, -⟩ | ⟨rfl, -⟩ | ⟨h6, h17, h1, -⟩ := classOf_cases p
    case inr.inr.inr =>
      rw [transportPath_other ihl ⟨h1, h6, h17⟩]
      exact ⟨decide_eq_true ⟨high, h1, h6, h17⟩, decide_eq_true ⟨long, fits⟩⟩
    all_goals exact ⟨decide_eq_true high, decide_eq_true ⟨long, fits⟩⟩

/-- Settles O2: the key's fields select one path, and table and decoder both give it. -/
theorem opcodeTableSelectsTheDecodedPath : Obligations.OpcodeTableSelectsTheDecodedPath := by
  intro len key
  rw [← encodeKey_fields key]
  obtain ⟨i, h⟩ := exists_keyPath len (key.extractLsb' 12 4) (key.extractLsb' 8 4) (key.extractLsb' 0 8)
  rw [h.tablePath_eq, h.decodeKey_eq]

/-! ### CMD values (R85) -/

theorem decodeCmd_cases (v : Word) :
    (cmdReservedBits v ≠ 0#31 ∧ decodeCmd v = .cmdReserved v) ∨ (v = 1#32 ∧ decodeCmd v = .start) ∨
      (v = 0#32 ∧ decodeCmd v = .cmdNop) := by
  by_cases h : cmdReservedBits v = 0#31
  case neg => exact .inl ⟨h, if_pos h⟩
  have hv := cmd_values h
  cases hb : v.getLsbD 0 <;> rw [hb] at hv
  · exact .inr (.inr ⟨hv, hv ▸ rfl⟩)
  · exact .inr (.inl ⟨hv, hv ▸ rfl⟩)

/-! ### Host operation words (R86) -/

/-- The host words R86 gives no operation: another op, or a field that must be 0 set. -/
def spellsNoOperation (w : HostWord) : Prop :=
  (hostOp w ≠ 1#8 ∧ hostOp w ≠ 2#8 ∧ hostOp w ≠ 3#8 ∧ hostOp w ≠ 4#8) ∨
    (hostOp w = 1#8 ∧ (hostData w).extractLsb' 8 24 ≠ 0#24) ∨ (hostOp w = 3#8 ∧ hostData w ≠ 0#32) ∨
    (hostOp w = 4#8 ∧ ¬ (hostArg w = 0#24 ∧ hostData w = 0#32))

/-- What a host word decodes to, by its op and the fields that must be 0 (R86). -/
theorem decodeHostWord_cases (w : HostWord) :
    (spellsNoOperation w ∧ ∃ why, decodeHostWord w = .error why) ∨
    (hostOp w = 1#8 ∧ (hostData w).extractLsb' 8 24 = 0#24 ∧
      decodeHostWord w = .ok (.wbuf (hostArg w) ((hostData w).extractLsb' 0 8))) ∨
    (hostOp w = 2#8 ∧ decodeHostWord w = .ok (.wreg (hostArg w) (hostData w))) ∨
    (hostOp w = 3#8 ∧ hostData w = 0#32 ∧ decodeHostWord w = .ok (.rreg (hostArg w))) ∨
    (hostOp w = 4#8 ∧ (hostArg w = 0#24 ∧ hostData w = 0#32) ∧ decodeHostWord w = .ok .wait) := by
  unfold decodeHostWord
  by_cases h1 : hostOp w = 1#8
  · by_cases hz : (hostData w).extractLsb' 8 24 = 0#24
    · exact .inr (.inl ⟨h1, hz, by simp [h1, hz]⟩)
    · exact .inl ⟨.inr (.inl ⟨h1, hz⟩), .reservedFieldSet, by simp [h1, hz]⟩
  by_cases h2 : hostOp w = 2#8
  · exact .inr (.inr (.inl ⟨h2, by simp [h2]⟩))
  by_cases h3 : hostOp w = 3#8
  · by_cases hz : hostData w = 0#32
    · exact .inr (.inr (.inr (.inl ⟨h3, hz, by simp [h3, hz]⟩)))
    · exact .inl ⟨.inr (.inr (.inl ⟨h3, hz⟩)), .reservedFieldSet, by simp [h3, hz]⟩
  by_cases h4 : hostOp w = 4#8
  · by_cases hz : hostArg w = 0#24 ∧ hostData w = 0#32
    · exact .inr (.inr (.inr (.inr ⟨h4, hz, by simp [h4, hz]⟩)))
    · exact .inl ⟨.inr (.inr (.inr ⟨h4, hz⟩)), .reservedFieldSet, by simp [h4, hz]⟩
  exact .inl ⟨.inl ⟨h1, h2, h3, h4⟩, .unknownOp, by simp [h1, h2, h3, h4]⟩

/-- Bits 55:0 of a host word are its argument and its data. -/
theorem low56_eq_zero_iff (w : HostWord) : w.extractLsb' 0 56 = 0#56 ↔ hostArg w = 0#24 ∧ hostData w = 0#32 := by
  constructor
  · intro h
    have ha : hostArg w = (w.extractLsb' 0 56).extractLsb' 32 24 :=
      (BitVec.extractLsb'_extractLsb'_of_le (by decide)).symm
    have hd : hostData w = (w.extractLsb' 0 56).extractLsb' 0 32 :=
      (BitVec.extractLsb'_extractLsb'_of_le (by decide)).symm
    rw [ha, hd, h]
    decide
  · rintro ⟨ha, hd⟩
    have h : hostArg w ++ hostData w = w.extractLsb' 0 56 :=
      BitVec.extractLsb'_append_extractLsb'_eq_extractLsb' (start₁ := 0) (len₁ := 32) (start₂ := 32) (len₂ := 24)
        (by decide)
    rw [← h, ha, hd]
    rfl

theorem hostData_high (w : HostWord) : (hostData w).extractLsb' 8 24 = w.extractLsb' 8 24 := by
  rw [hostData, BitVec.extractLsb'_extractLsb'_of_le (by decide)]

theorem decodeHostWord_error_iff (w : HostWord) : (∃ why, decodeHostWord w = .error why) ↔ spellsNoOperation w := by
  obtain ⟨hn, hd⟩ | ⟨hop, hz, hd⟩ | ⟨hop, hd⟩ | ⟨hop, hz, hd⟩ | ⟨hop, hz, hd⟩ := decodeHostWord_cases w
  · exact iff_of_true hd hn
  · simp [spellsNoOperation, hd, hop, hz]
  · simp [spellsNoOperation, hd, hop]
  · simp [spellsNoOperation, hd, hop, hz]
  · simp [spellsNoOperation, hd, hop, hz]

/-- Settles O5: the statement's bits 31:8 are of the data, and its bits 55:0 the argument and the data. -/
theorem hostWordRefusedExactly : Obligations.HostWordRefusedExactly := by
  intro w
  have h := decodeHostWord_error_iff w
  rw [spellsNoOperation, hostData_high, ← low56_eq_zero_iff] at h
  exact h

/-! ### Decode and encode agree (R82 to R86) -/

/-- In a packet of a length that its row admits, the fields of a decode path's key select that path. -/
theorem decodeCode_encodeKey {len : Nat} {v ihl : BitVec 4} {p : Byte} {i : Instr} (h : KeyPath len v ihl p i) :
    decodeCode len (.key (encodeKey v ihl p)) = .ok i := congrArg Except.ok h.decodeKey_eq

/-- Settles O1: a path's key selects it by its fields, and the fields of the other words are read back. -/
theorem decodeOfEncodeIsTheInstruction : Obligations.DecodeOfEncodeIsTheInstruction := by
  intro i len hw hl
  cases i with
  | ipTruncated => exact decodeCode_encodeKey (.ipTruncated (of_decide_eq_true hl))
  | unsupportedVersion version =>
    exact decodeCode_encodeKey (.unsupportedVersion (of_decide_eq_true hl) (of_decide_eq_true hw))
  | malformedIhl03 ihl => exact decodeCode_encodeKey (.malformedIhl03 (of_decide_eq_true hl) (of_decide_eq_true hw))
  | malformedIhl4 => exact decodeCode_encodeKey (.malformedIhl4 (of_decide_eq_true hl))
  | malformedOverlength ihl =>
    obtain ⟨long, overlong⟩ := of_decide_eq_true hl
    exact decodeCode_encodeKey (.malformedOverlength long (of_decide_eq_true hw) overlong)
  | decodeTcp ihl | decodeUdp ihl | decodeIcmp ihl =>
    obtain ⟨long, fits⟩ := of_decide_eq_true hl
    exact decodeCode_encodeKey (.transport long (of_decide_eq_true hw) fits)
  | decodeOther ihl proto =>
    obtain ⟨long, fits⟩ := of_decide_eq_true hl
    obtain ⟨high, hproto⟩ := of_decide_eq_true hw
    exact (decodeCode_encodeKey (.transport long high fits)).trans (congrArg Except.ok (transportPath_other ihl hproto))
  | start => rfl
  | cmdNop => rfl
  | cmdReserved v => exact congrArg Except.ok (if_pos (of_decide_eq_true hw))
  | wbuf a d =>
    simp [encode, decodeCode, decodeHostWord, hostOp_encodeHost, hostArg_encodeHost, hostData_encodeHost, data_high,
      data_low]
  | wreg | rreg =>
    simp [encode, decodeCode, decodeHostWord, hostOp_encodeHost, hostArg_encodeHost, hostData_encodeHost]
  | wait => rfl

/-- Settles O3: an operation's op and fields are the word's, and the fields it does not carry are the word's zeros. -/
theorem hostEncodingsHaveOneMeaning : Obligations.HostEncodingsHaveOneMeaning := by
  refine ⟨fun w i h => ?_, fun v => ?_⟩
  · have hw := encodeHost_fields w
    obtain ⟨-, why, hd⟩ | ⟨hop, hz, hd⟩ | ⟨hop, hd⟩ | ⟨hop, hz, hd⟩ | ⟨hop, ⟨ha, hz⟩, hd⟩ := decodeHostWord_cases w <;>
      cases hd.symm.trans h
    · rw [encode, data_of_byte _ hz, ← hop, hw]
    · rw [encode, ← hop, hw]
    · rw [encode, ← hop, ← hz, hw]
    · rw [encode, ← hop, ← ha, ← hz, hw]
  · obtain ⟨-, hd⟩ | ⟨rfl, hd⟩ | ⟨rfl, hd⟩ := decodeCmd_cases v <;> rw [hd, encode]

/-- Settles O4: a key's path has its row's conditions, only CMD_RESERVED of the commands has one, and host operations
have none. -/
theorem decodedInstructionsAreWellFormed : Obligations.DecodedInstructionsAreWellFormed := by
  intro len c i h
  cases c with
  | key k =>
    cases h
    obtain ⟨i, hi⟩ := exists_keyPath len (k.extractLsb' 12 4) (k.extractLsb' 8 4) (k.extractLsb' 0 8)
    rw [← encodeKey_fields k, hi.decodeKey_eq]
    exact hi.wellFormed_lenGuard
  | cmd v =>
    cases h
    obtain ⟨hv, hd⟩ | ⟨-, hd⟩ | ⟨-, hd⟩ := decodeCmd_cases v <;> rw [hd]
    · exact ⟨decide_eq_true hv, rfl⟩
    · exact ⟨rfl, rfl⟩
    · exact ⟨rfl, rfl⟩
  | host w => obtain ⟨a, d, rfl⟩ | ⟨r, v, rfl⟩ | ⟨r, rfl⟩ | rfl := decodeHostWord_ok h <;> exact ⟨rfl, rfl⟩

/-- Settles O6: each word is decoded by evaluation. -/
theorem listedWordsDecode : Obligations.ListedWordsDecode := by
  unfold Obligations.ListedWordsDecode
  decide

end Sys2Proof

namespace Sys2Proof.Machine
open Sys2Proof.Claims

/-! ### What stops a step (R86, R170) -/

/-- Settles O27: both are the write of the value to CMD. -/
theorem cmdWriteIsItsCommand : Obligations.CmdWriteIsItsCommand := by
  intro s v
  rw [exec_decodeCmd]
  rfl

/-- The host's next event is a word that the decoder refuses. -/
def nextRefused (s : State) (why : HostWordReject) : Prop :=
  ∃ w rest, s.hostQueue = .word w :: rest ∧ decodeHostWord w = .error why

/-- The host's step has an answer unless its word spells no operation. -/
theorem hostStep_next_or_refused (s : State) :
    (∃ t, hostStep s = .next t) ∨ ∃ why, nextRefused s why ∧ hostStep s = .refused (.badHostWord why) := by
  cases hq : s.hostQueue with
  | nil => exact .inl ⟨s, hostStep_nil hq⟩
  | cons e rest =>
    cases e with
    | word w =>
      cases hd : decodeHostWord w with
      | error why => exact .inr ⟨why, ⟨w, rest, hq, hd⟩, by simp [hostStep, hq, hd]⟩
      | ok i =>
        rw [hostStep_word hq hd]
        obtain ⟨a, d, rfl⟩ | ⟨r, v, rfl⟩ | ⟨r, rfl⟩ | rfl := decodeHostWord_ok hd
        case inr.inr.inr =>
          by_cases hp : s.phase = .done
          · exact .inl ⟨_, if_pos hp⟩
          · exact .inl ⟨_, if_neg hp⟩
        all_goals exact .inl ⟨_, rfl⟩
    | cmd v => exact .inl ⟨_, (hostStep_cmd hq).trans (exec_decodeCmd s v)⟩
    | byteWrite a d => exact .inl ⟨_, hostStep_byteWrite hq⟩
    | reset => exact .inl ⟨s.assertReset.retire, by simp [hostStep, hq]⟩
    | emit verbose => exact .inl ⟨(s.emitLine verbose).retire, by simp [hostStep, hq]⟩

theorem step_next_or_refused (s : State) :
    (∃ t, step s = .next t) ∨ ∃ why, nextRefused s why ∧ step s = .refused (.badHostWord why) := by
  cases hm : s.mover with
  | host =>
    rw [step_eq_of_host hm]
    obtain ⟨t, ht⟩ | ⟨why, hw, hr⟩ := hostStep_next_or_refused s
    · exact .inl ⟨_, congrArg afterMove ht⟩
    · exact .inr ⟨why, hw, congrArg afterMove hr⟩
  | block =>
    rw [step_eq_of_block hm, blockStep_eq_completeWith (State.mover_block hm)]
    exact .inl ⟨_, rfl⟩

/-- Settles O52: a step answers a next state or the refusal of the host's word. -/
theorem stepStopsOnlyOnUnspellableWords : Obligations.StepStopsOnlyOnUnspellableWords := by
  intro s
  obtain ⟨t, ht⟩ | ⟨why, ⟨w, rest, hq, hd⟩, hr⟩ := step_next_or_refused s
  · rw [ht]
    exact ⟨nofun, nofun⟩
  · rw [hr]
    refine ⟨nofun, fun r h => ?_⟩
    cases h
    exact ⟨w, rest, why, hq, hd, rfl⟩

end Sys2Proof.Machine
end

section
/-! ## The packets that decode: every field committed (R133 to R140) -/

namespace Sys2Proof.Machine
open Sys2Proof.Claims

/-! ### The fields of a header from its bytes (R71 to R78) -/

theorem flagRsvOf_append (x y : Byte) : flagRsvOf (x ++ y) = x.extractLsb' 7 1 :=
  BitVec.extractLsb'_append_eq_of_le (by decide)

theorem flagDfOf_append (x y : Byte) : flagDfOf (x ++ y) = x.extractLsb' 6 1 :=
  BitVec.extractLsb'_append_eq_of_le (by decide)

theorem flagMfOf_append (x y : Byte) : flagMfOf (x ++ y) = x.extractLsb' 5 1 :=
  BitVec.extractLsb'_append_eq_of_le (by decide)

/-- The fragment offset is the only field of the header that crosses a byte. -/
theorem fragOffOf_append (x y : Byte) : fragOffOf (x ++ y) = x.extractLsb' 0 5 ++ y := by
  have h := BitVec.extractLsb'_append_eq_ite (xhi := x) (xlo := y) (start := 0) (len := 13)
  simpa [fragOffOf, BitVec.extractLsb'_eq_self] using h

theorem tcpDoffOf_append (x y : Byte) : tcpDoffOf (x ++ y) = x.extractLsb' 4 4 :=
  BitVec.extractLsb'_append_eq_of_le (by decide)

theorem tcpFlagsOf_append (x y : Byte) : tcpFlagsOf (x ++ y) = y.extractLsb' 0 6 :=
  BitVec.extractLsb'_append_eq_of_add_le (by decide)

theorem ipHeaderOf_congr {B B' : Nat → Byte} (ihl : BitVec 4) (h : ∀ a < 20, B a = B' a) :
    ipHeaderOf B ihl = ipHeaderOf B' ihl := by
  simp [ipHeaderOf, memRead16, memRead32, h]

theorem transportOf_congr {B B' : Nat → Byte} {t : Nat} {c : TransportClass}
    (h : ∀ a, t ≤ a → a < t + transportNeed c → B a = B' a) : transportOf B t c = transportOf B' t c := by
  cases c
  case other => rfl
  all_goals
    simp only [transportNeed] at h
    simp [transportOf, tcpHeaderOf, udpHeaderOf, icmpHeaderOf, memRead16, memRead32, h, Nat.add_assoc]

theorem tcpHeaderOf_eq (B : Nat → Byte) (t : Nat) :
    tcpHeaderOf B t = .tcp (B t ++ B (t + 1)) (B (t + 2) ++ B (t + 3))
      (B (t + 4) ++ B (t + 5) ++ B (t + 6) ++ B (t + 7)) (B (t + 8) ++ B (t + 9) ++ B (t + 10) ++ B (t + 11))
      ((B (t + 12)).extractLsb' 4 4) ((B (t + 13)).extractLsb' 0 6) (B (t + 14) ++ B (t + 15)) := by
  simp only [tcpHeaderOf, memRead16, memRead32, tcpDoffOf_append, tcpFlagsOf_append]

/-! ### What commit_ok writes, by the packet's bytes (R140) -/

/-- The result registers with a transport header's fields written (R77 to R80). -/
def Results.withTransport (r : Results) : Transport → Results
  | .tcp srcPort dstPort seq ack doff flags win =>
    { r with srcPort := srcPort, dstPort := dstPort, tcpSeq := seq, tcpAck := ack, tcpDoff := doff, tcpFlags := flags,
             tcpWin := win }
  | .udp srcPort dstPort len => { r with srcPort := srcPort, dstPort := dstPort, udpLen := len }
  | .icmp type code => { r with icmpType := type, icmpCode := code }
  | .other => r

theorem Results.ofPacket_withTransport (ip : IpHeader) (tr : Transport) (ts : Word) :
    Results.ofPacket ip tr ts = (Results.ofPacket ip .other ts).withTransport tr := by
  cases tr <;> rfl

/-- The registers of a success without transport fields: the IPv4 fields at their offsets, the class, PROTO_KNOWN. -/
theorem Results.ofPacket_other {B : Nat → Byte} {ihl : BitVec 4} (ts : Word) (h0 : B 0 = 4#4 ++ ihl) :
    Results.ofPacket (ipHeaderOf B ihl) .other ts =
      { ipResults B ts with cls := classOf (B 9), protoKnown := protoKnownOf (B 9) } := by
  have hihl : (B 0).extractLsb' 0 4 = ihl := h0 ▸ ihlOf_append 4#4 ihl
  simp [Results.ofPacket, ipHeaderOf, ipResults, hihl, memRead16, memRead32, dscpOf, ecnOf, hdrBytesOf,
    flagRsvOf_append, flagDfOf_append, flagMfOf_append, fragOffOf_append, Results.zero]

/-! ### PROTO_KNOWN by the protocol's name (R160 to R162) -/

theorem romNameOrUnassigned_ne_unknown (name : Option String) : romNameOrUnassigned name ≠ some "Unknown" := by
  cases name with
  | none => nofun
  | some name =>
    unfold romNameOrUnassigned
    by_cases h : name = "" ∨ name = "Unknown"
    · simp only [if_pos h]
      nofun
    · simp only [if_neg h]
      exact fun e => h (.inr (Option.some.inj e))

theorem protoNameRom_ne_unknown (p : Byte) : protoNameRom p ≠ some "Unknown" := by
  unfold protoNameRom
  split_ifs
  · decide
  · decide
  · decide
  · nofun
  · exact romNameOrUnassigned_ne_unknown _

theorem protoKnownOf_eq (p : Byte) : protoKnownOf p = if nameFor p = "Unknown" then 0#1 else 1#1 := by
  unfold protoKnownOf nameFor
  cases h : protoNameRom p with
  | none => rfl
  | some name =>
    have hne : name ≠ "Unknown" := fun hn => protoNameRom_ne_unknown p (hn ▸ h)
    simp [hne]

/-! ### An accepted header selects its protocol's path, which commits the packet -/

theorem pathTaken_of_headerAccepted {s : State} {B : Nat → Byte} {ihl : BitVec 4} (h : headerAccepted s B ihl) :
    s.pathTaken = some (transportPath ihl (B 9)) := by
  obtain ⟨-, long, h0, high, fits, hB⟩ := h
  rw [State.pathTaken, hB 0 (by decide), hB 9 (by decide), selectPath_eq_decodeKey, h0]
  exact congrArg some (KeyPath.transport long high fits).decodeKey_eq

/-- With its transport bytes present, the path of an accepted packet's protocol commits its IPv4 and transport
fields. -/
theorem exec_transportPath_present {s : State} {B : Nat → Byte} {ihl : BitVec 4} {p : Byte}
    (h : headerAccepted s B ihl) (hp : B 9 = p) (ht : transportPresent s B ihl (transportNeed (classOf p))) :
    exec (transportPath ihl p) s = .next (doneWith s
      (Results.withTransport { ipResults B s.tsL with cls := classOf p, protoKnown := protoKnownOf p }
        (transportOf B (ihl.toNat * 4) (classOf p)))) := by
  subst hp
  have hpath := pathTaken_of_headerAccepted h
  obtain ⟨hb, -, h0, -, -, hB⟩ := h
  obtain ⟨hlen, hT⟩ := ht
  have hip : ipHeaderOf s.byteAt ihl = ipHeaderOf B ihl :=
    ipHeaderOf_congr ihl fun a ha => State.byteAt_of_byte (hB a ha)
  have htr : transportOf s.byteAt (ihl.toNat * 4) (classOf (B 9)) = transportOf B (ihl.toNat * 4) (classOf (B 9)) :=
    transportOf_congr fun a h1 h2 => State.byteAt_of_byte (hT a h1 h2)
  have hrem : ¬ s.remaining ihl < transportNeed (classOf (B 9)) := by
    unfold State.remaining hdrBytesOf
    omega
  have hall : s.allWritten (headerReads ++ transportReads (ihl.toNat * 4) (transportNeed (classOf (B 9)))) = true := by
    refine (s.allWritten_iff _).2 fun a ha => ⟨B a, ?_⟩
    obtain ha | ha := List.mem_append.1 ha
    · exact hB a (mem_headerReads.1 ha)
    · exact hT a (mem_transportReads.1 ha).1 (mem_transportReads.1 ha).2
  rw [exec_transportPath, State.onPath_taken _ hb hpath, if_neg hrem, hdrBytesOf, State.completeWith, if_pos hall, hip,
    htr, ← Results.ofPacket_other _ h0, ← Results.ofPacket_withTransport]
  rfl

/-- Settles O10: protocol 6 is the TCP path, with its 16 bytes as the fields. -/
theorem tcpPacketCommitsEveryField : Obligations.TcpPacketCommitsEveryField := by
  rintro s B ihl t h h9 rfl ht
  have hx := exec_transportPath_present h h9 ht
  rw [show classOf 6#8 = .tcp from rfl, transportOf, tcpHeaderOf_eq] at hx
  exact hx

/-- Settles O11: protocol 17 is the UDP path, with its 6 bytes as the fields. -/
theorem udpPacketCommitsEveryField : Obligations.UdpPacketCommitsEveryField := by
  rintro s B ihl t h h9 rfl ht
  exact exec_transportPath_present h h9 ht

/-- Settles O12: protocol 1 is the ICMP path, with its 2 bytes as the fields. -/
theorem icmpPacketCommitsEveryField : Obligations.IcmpPacketCommitsEveryField := by
  rintro s B ihl t h h9 rfl ht
  exact exec_transportPath_present h h9 ht

/-- Settles O13: every other protocol needs no transport byte, and has the class of no transport header. -/
theorem otherPacketCommitsIpFields : Obligations.OtherPacketCommitsIpFields := by
  intro s B ihl h h1 h6 h17
  have hc : classOf (B 9) = .other := by simp [classOf, h1, h6, h17]
  obtain ⟨-, -, -, -, fits, -⟩ := id h
  have ht : transportPresent s B ihl (transportNeed (classOf (B 9))) := by
    rw [hc]
    exact ⟨fits, fun a h1 h2 => absurd h2 (Nat.not_lt.2 h1)⟩
  have hx := exec_transportPath_present h rfl ht
  rw [transportPath_other ihl ⟨h1, h6, h17⟩, hc, protoKnownOf_eq] at hx
  exact hx

end Sys2Proof.Machine
end

section
/-! ## The packets the IPv4 stage rejects (R101, R104, R107) -/

namespace Sys2Proof.Machine
open Sys2Proof.Claims

/-- Settles O7: a short packet selects IP_TRUNCATED, whose read set is empty. -/
theorem shortPacketCommitsTruncated : Obligations.ShortPacketCommitsTruncated :=
  fun s hb hL => s.onPath_taken _ hb (selectPath_short _ _ hL)

/-! ### The reject path that the version and the header length select (R83) -/

theorem headerPath_otherVersion (len : Nat) {version : BitVec 4} (ihl : BitVec 4) (h : version ≠ 4#4) :
    headerPath len (version ++ ihl) = some (.unsupportedVersion version) := by
  rw [headerPath, versionOf_append, if_pos h]

theorem headerPath_version4 (len : Nat) (ihl : BitVec 4) :
    headerPath len (4#4 ++ ihl) =
      if ihl.toNat < 4 then some (.malformedIhl03 ihl)
      else if ihl = 4#4 then some .malformedIhl4
      else if len < ihl.toNat * 4 then some (.malformedOverlength ihl)
      else none := by
  rw [headerPath, versionOf_append, ihlOf_append, if_neg (not_not_intro rfl), hdrBytesOf]

/-! ### A reject path commits its error once byte 0 is written (R141, R142) -/

/-- In a packet of 20 bytes or more whose byte 0 selects a reject path, that path commits its error: byte 0 is the whole
of its read set. -/
theorem exec_headerPath_rejected {s : State} {vb : Byte} {i : Instr} {e : ErrCode} (hb : s.phase = .busy)
    (hL : 20 ≤ s.lenL.toNat) (h0 : s.byte? 0 = some vb) (hp : headerPath s.lenL.toNat vb = some i)
    (hx : exec i s = s.onPath i (s.completeWith [0] (s.commitErr e))) :
    exec i s = .next (doneWith s (errorResults e)) := by
  have hpath : s.pathTaken = some i := by rw [State.pathTaken, h0, selectPath_rejected _ hL hp]
  have hread : s.allWritten [0] = true := by simp [State.allWritten, h0]
  rw [hx, State.onPath_taken _ hb hpath, State.completeWith, if_pos hread]
  rfl

/-- Settles O8: a version other than 4 selects UNSUPPORTED_VERSION before the header length is looked at. -/
theorem otherVersionCommitsUnsupportedVersion : Obligations.OtherVersionCommitsUnsupportedVersion :=
  fun _ _ low hb hL h0 hv => exec_headerPath_rejected hb hL h0 (headerPath_otherVersion _ low hv) rfl

/-- Settles O9: with version 4, each of the three conditions selects its path; a header longer than a packet of 20 bytes or
more has more than 4 words, so the first two do not hold of it. -/
theorem badHeaderLengthCommitsMalformedHeader : Obligations.BadHeaderLengthCommitsMalformedHeader := by
  intro s ihl hb hL h0
  have hp := headerPath_version4 s.lenL.toNat ihl
  refine ⟨fun low => ?_, fun four => ?_, fun overlong => ?_⟩
  · rw [if_pos low] at hp
    exact exec_headerPath_rejected hb hL h0 hp rfl
  · obtain rfl : ihl = 4#4 := BitVec.eq_of_toNat_eq four
    exact exec_headerPath_rejected hb hL h0 hp rfl
  · have high : 5 ≤ ihl.toNat := by omega
    rw [if_neg (by omega), if_neg (ne_four_of_high high), if_pos overlong] at hp
    exact exec_headerPath_rejected hb hL h0 hp rfl

end Sys2Proof.Machine
end

section
/-! ## The whole decode: one function of its inputs, with an error's registers or a success's (R142 to R145) -/

namespace Sys2Proof.Machine
open Sys2Proof.Claims

/-! ### The block's step is the whole decode (R142, R180) -/

/-- Settles O15: COMPLETE checks the read set of the whole decode and commits its results, or records UnwrittenByte. -/
theorem blockStepIsTheWholeDecode : Obligations.BlockStepIsTheWholeDecode :=
  fun _ hb => blockStep_eq_completeWith hb

theorem blockStep_of_written {s : State} (hb : s.phase = .busy)
    (h : ∀ a ∈ readSet s.byteAt s.lenL.toNat, ∃ v, s.byte? a = some v) :
    blockStep s = .next (doneWith s (wholeDecode s.byteAt s.lenL.toNat s.tsL)) := by
  rw [blockStep_eq_completeWith hb, State.completeWith, if_pos ((s.allWritten_iff _).2 h)]

/-! ### Too few transport bytes (R133, R135, R136) -/

/-- With fewer bytes than its class needs, the path of an accepted packet's protocol commits Truncated: bytes 0 to 19 are
the whole of its read set. -/
theorem exec_transportPath_missing {s : State} {B : Nat → Byte} {ihl : BitVec 4} {p : Byte}
    (h : headerAccepted s B ihl) (hp : B 9 = p) (hshort : s.lenL.toNat < ihl.toNat * 4 + transportNeed (classOf p)) :
    exec (transportPath ihl p) s = .next (doneWith s (errorResults .truncated)) := by
  subst hp
  have hpath := pathTaken_of_headerAccepted h
  obtain ⟨hb, -, -, -, fits, hB⟩ := h
  have hrem : s.remaining ihl < transportNeed (classOf (B 9)) := by
    unfold State.remaining hdrBytesOf
    omega
  have hall : s.allWritten headerReads = true :=
    (s.allWritten_iff _).2 fun a ha => ⟨B a, hB a (mem_headerReads.1 ha)⟩
  rw [exec_transportPath, State.onPath_taken _ hb hpath, if_pos hrem, State.completeWith, if_pos hall]
  rfl

/-- Settles O14: protocols 6, 17 and 1 are of the classes TCP, UDP and ICMP, which need 16, 6 and 2 bytes. -/
theorem shortTransportCommitsTruncated : Obligations.ShortTransportCommitsTruncated :=
  fun _ _ _ h => ⟨exec_transportPath_missing h, exec_transportPath_missing h, exec_transportPath_missing h⟩

/-! ### The size of the read set (R144) -/

/-- TCP needs the most transport bytes. -/
theorem transportNeed_le (c : TransportClass) : transportNeed c ≤ 16 := by
  cases c <;> decide

/-- The transport part lies after the 20 bytes of the fixed header, so no byte is read twice. -/
theorem nodup_headerReads_append_transportReads {t : Nat} (n : Nat) (ht : 20 ≤ t) :
    (headerReads ++ transportReads t n).Nodup := by
  refine List.nodup_range.append List.nodup_range' fun a hh htr => ?_
  have h20 := mem_headerReads.1 hh
  have hta := (mem_transportReads.1 htr).1
  omega

/-- Settles O17: an accepted header reads 20 bytes and at most 16 after them, every other packet at most byte 0. -/
theorem decodeReadsAtMost36Bytes : Obligations.DecodeReadsAtMost36Bytes := by
  intro B L
  by_cases hL : L < 20
  · simp [readSet_short B hL]
  have hL' : 20 ≤ L := by omega
  cases hp : headerPath L (B 0) with
  | some i => simp [(headerPath_rejects hL' hp).1]
  | none =>
    obtain ⟨-, h5, -⟩ := headerPath_eq_none hp
    rw [readSet_accepted hL' hp]
    split
    · exact ⟨by decide, List.nodup_range⟩
    · constructor
      · have hneed := transportNeed_le (classOf (B 9))
        simp only [headerReads, transportReads, List.length_append, List.length_range, List.length_range']
        omega
      · exact nodup_headerReads_append_transportReads _ (by unfold hdrBytesOf; omega)

/-! ### The decode depends only on the bytes it reads (R143) -/

/-- A reject path commits an error that byte 0 alone decides (R104, R107). -/
theorem wholeDecode_rejected {B : Nat → Byte} {L : Nat} {i : Instr} (T : Word) (hL : 20 ≤ L)
    (hp : headerPath L (B 0) = some i) :
    wholeDecode B L T =
      Results.ofError (if versionOf (B 0) = 4#4 then .malformedHeader else .unsupportedVersion) := by
  have hL' : ¬ L < 20 := by omega
  by_cases hv : versionOf (B 0) = 4#4
  · have hh : hdrBytesOf (ihlOf (B 0)) < 20 ∨ L < hdrBytesOf (ihlOf (B 0)) := by
      obtain ⟨hv', -⟩ | ⟨-, h3, -⟩ | ⟨-, h4, -⟩ | ⟨-, -, hl, -⟩ | ⟨-, -, -, hn⟩ := headerPath_cases L (B 0)
      · exact absurd hv hv'
      · exact .inl (by unfold hdrBytesOf; omega)
      · exact .inl (by rw [h4]; decide)
      · exact .inr hl
      · rw [hn] at hp
        cases hp
    simp [wholeDecode, hL', hv, hh]
  · simp [wholeDecode, hL', hv]

/-- Two buffers that agree on the read set of one have the same read set and the same decode. -/
theorem readSet_wholeDecode_congr {B B' : Nat → Byte} {L : Nat} (T : Word) (h : ∀ a ∈ readSet B L, B a = B' a) :
    readSet B' L = readSet B L ∧ wholeDecode B' L T = wholeDecode B L T := by
  by_cases hL : L < 20
  · simp only [readSet_short _ hL, wholeDecode_short _ T hL, and_self]
  have hL' : 20 ≤ L := by omega
  have h0 : B 0 = B' 0 := h 0 (zero_mem_readSet B hL')
  cases hp : headerPath L (B 0) with
  | some i =>
    have hp' : headerPath L (B' 0) = some i := h0 ▸ hp
    rw [(headerPath_rejects hL' hp).1, (headerPath_rejects hL' hp').1, wholeDecode_rejected T hL' hp,
      wholeDecode_rejected T hL' hp', h0]
    exact ⟨rfl, rfl⟩
  | none =>
    have hp' : headerPath L (B' 0) = none := h0 ▸ hp
    rw [readSet_accepted hL' hp] at h ⊢
    have hheader : ∀ a < 20, B a = B' a := by
      intro a ha
      apply h
      split <;> simp [mem_headerReads, ha]
    rw [readSet_accepted hL' hp', wholeDecode_accepted T hL' hp, wholeDecode_accepted T hL' hp', ← h0,
      ← hheader 9 (by decide), ipHeaderOf_congr _ hheader]
    refine ⟨rfl, ?_⟩
    split
    · rfl
    · rename_i hlong
      rw [if_neg hlong] at h
      rw [transportOf_congr fun a h1 h2 => h a (List.mem_append_right _ (mem_transportReads.2 ⟨h1, h2⟩))]

/-- Settles O18: both blocks find the read set of the one decode written, and commit it. -/
theorem decodeDependsOnlyOnItsInputs : Obligations.DecodeDependsOnlyOnItsInputs := by
  intro s t hs ht hlen hts h
  have hbytes : ∀ a ∈ readSet s.byteAt s.lenL.toNat, s.byteAt a = t.byteAt a := by
    intro a ha
    obtain ⟨v, hsv, htv⟩ := h a ha
    rw [State.byteAt_of_byte hsv, State.byteAt_of_byte htv]
  obtain ⟨hreads, hdecode⟩ := readSet_wholeDecode_congr s.tsL hbytes
  refine ⟨wholeDecode s.byteAt s.lenL.toNat s.tsL, blockStep_of_written hs fun a ha => ?_, ?_⟩
  · obtain ⟨v, hsv, -⟩ := h a ha
    exact ⟨v, hsv⟩
  · rw [← hdecode, hlen, hts]
    refine blockStep_of_written ht fun a ha => ?_
    rw [← hlen, hreads] at ha
    obtain ⟨v, -, htv⟩ := h a ha
    exact ⟨v, htv⟩

/-! ### The registers of an error (R141) -/

/-- commit_err leaves 0 in every register but ERR. -/
theorem resultReg_ofError (e : ErrCode) {reg : Reg} (h : reg ≠ .err) : resultReg (Results.ofError e) reg = 0#32 := by
  cases reg
  case err => exact absurd rfl h
  all_goals rfl

/-- Settles O21: a decode that fails commits by commit_err. -/
theorem errorLeavesNoStaleData : Obligations.ErrorLeavesNoStaleData := by
  intro B L T reg herr _ hreg
  obtain ⟨e, he⟩ := wholeDecode_error herr
  rw [he]
  exact resultReg_ofError e hreg

/-! ### The class and the name of a protocol (R131, R160 to R164) -/

/-- Settles O59: the definition's own cases. -/
theorem classOfEveryProtocol : Obligations.ClassOfEveryProtocol :=
  ⟨fun _ => rfl, rfl, rfl, rfl, rfl⟩

/-- Protocols of 148 and above have no name (R160). -/
theorem nameFor_unassigned {p : Byte} (h : 148 ≤ p.toNat) : nameFor p = "Unknown" := by
  have ne_of_low {q : Byte} (hq : q.toNat < 148) : p ≠ q := by
    rintro rfl
    omega
  simp only [nameFor, protoNameRom, if_neg (ne_of_low (q := 1#8) (by decide)),
    if_neg (ne_of_low (q := 6#8) (by decide)), if_neg (ne_of_low (q := 17#8) (by decide)), if_pos h, Option.getD_none]

/-- A decode with ERR 0 is a success: every reject of R142 commits another code. -/
theorem wholeDecode_ofSuccess {B : Nat → Byte} {L : Nat} {T : Word} (h : (wholeDecode B L T).err = .ok) :
    (wholeDecode B L T).ofSuccess := by
  by_cases hL : L < 20
  · rw [wholeDecode_short B T hL] at h
    cases h
  have hL' : 20 ≤ L := by omega
  cases hp : headerPath L (B 0) with
  | some i =>
    rw [wholeDecode_rejected T hL' hp] at h
    split at h <;> cases h
  | none =>
    obtain ⟨-, h5, -⟩ := headerPath_eq_none hp
    rw [wholeDecode_accepted T hL' hp] at h ⊢
    split at h
    · cases h
    · rename_i hlong
      rw [if_neg hlong]
      exact Results.ofPacket_ofSuccess B T h5 (cls_transportOf _ _ _)

/-- Settles O20: a success has the class and PROTO_KNOWN of its protocol, which is 6, 17, 1 or of class Other. -/
theorem classAgreesWithProtocol : Obligations.ClassAgreesWithProtocol := by
  rintro B L T r rfl hok
  have hs := wholeDecode_ofSuccess hok
  rw [hs.cls, hs.protoKnown]
  generalize (wholeDecode B L T).proto = p
  refine ⟨rfl, ?_⟩
  obtain ⟨rfl, -⟩ | ⟨rfl, -⟩ | ⟨rfl, -⟩ | ⟨-, -, -, hc⟩ := classOf_cases p
  · exact ⟨fun _ => ⟨rfl, rfl⟩, nofun, nofun, fun h => absurd h (by decide)⟩
  · exact ⟨nofun, fun _ => ⟨rfl, rfl⟩, nofun, fun h => absurd h (by decide)⟩
  · exact ⟨nofun, nofun, fun _ => ⟨rfl, rfl⟩, fun h => absurd h (by decide)⟩
  · rw [hc]
    refine ⟨nofun, nofun, nofun, fun h => ⟨rfl, ?_, nameFor_unassigned h⟩⟩
    rw [protoKnownOf_eq, if_pos (nameFor_unassigned h)]

end Sys2Proof.Machine
end

section
/-! The protocol-name ROM holds no empty name, and PROTO_KNOWN follows the name (R160 to R162). -/

namespace Sys2Proof.Machine

theorem romNameOrUnassigned_ne_empty (o : Option String) : romNameOrUnassigned o ≠ some "" := by
  cases o with
  | none => nofun
  | some name =>
    simp only [romNameOrUnassigned]
    split_ifs with h
    · nofun
    · exact fun e => h (.inl (Option.some.inj e))

theorem protoNameRom_ne_empty (p : Byte) : protoNameRom p ≠ some "" := by
  unfold protoNameRom
  split_ifs
  · decide
  · decide
  · decide
  · nofun
  · exact romNameOrUnassigned_ne_empty _

/-- An unassigned entry prints as "Unknown" and an assigned one as its name, so neither is empty (R161). -/
theorem nameFor_ne_empty (p : Byte) : nameFor p ≠ "" := by
  unfold nameFor
  cases h : protoNameRom p with
  | none => decide
  | some name => exact fun hn => protoNameRom_ne_empty p (h.trans (congrArg some hn))

/-- PROTO_KNOWN says whether the name is another than "Unknown" (R162). -/
theorem protoKnownOf_eq_one_iff (p : Byte) : protoKnownOf p = 1#1 ↔ nameFor p ≠ "Unknown" := by
  rw [protoKnownOf_eq]
  by_cases h : nameFor p = "Unknown" <;> simp [h]

/-- Settles O53: its three fixed entries are read off the ROM, the rest is said entry by entry above. -/
theorem protocolTableIsTotal : Obligations.ProtocolTableIsTotal :=
  ⟨nameFor_ne_empty, rfl, rfl, rfl, fun _ => nameFor_unassigned, protoKnownOf_eq_one_iff⟩

end Sys2Proof.Machine
end

section
/-! ## The host's interface: what each command and host operation answers, leaves and records -/

namespace Sys2Proof.Machine
open Sys2Proof.Claims

/-! ### Commands and register operations (R173 to R179) -/

/-- Settles O25: START's two cases, and 1 is the CMD value that spells START. -/
theorem startLatchesItsInputs : Obligations.StartLatchesItsInputs := by
  intro s
  refine ⟨?_, cmdWriteIsItsCommand s 1#32⟩
  change Host.Outcome.next s.startDecode.retire = _
  obtain ⟨hb, hr⟩ | ⟨hb, hr⟩ := s.startDecode_cases
  · rw [hr, if_pos hb]
    rfl
  · rw [hr, if_neg hb]
    rfl

/-- Settles O26: CMD_NOP only retires its event, and 0 is the CMD value that spells it. -/
theorem cmdNopChangesNothing : Obligations.CmdNopChangesNothing :=
  fun s => ⟨rfl, cmdWriteIsItsCommand s 0#32⟩

/-- Settles O31: register 2 is TS_IN, whose write has no check. -/
theorem wregTsInSetsTimestamp : Obligations.WregTsInSetsTimestamp := fun _ _ => rfl

/-- Settles O30: register 1 is LEN, whose write has two cases. -/
theorem wregLenSetsLength : Obligations.WregLenSetsLength := by
  intro s v
  change Host.Outcome.next (s.hostWriteLen v).retire = _
  obtain ⟨h, hr⟩ | ⟨h, hr⟩ := s.hostWriteLen_cases v
  · rw [hr, if_pos h]
    rfl
  · rw [hr, if_neg (Nat.not_lt.2 h)]
    rfl

theorem State.hostWriteReg_of_unassigned (s : State) {n : Nat} (v : Word) (h : 34 ≤ n) :
    s.hostWriteReg n v = s.recordFault .badRegister := by
  rw [State.hostWriteReg, regOf_none.2 h]

theorem State.hostReadReg_of_unassigned (s : State) {n : Nat} (h : 34 ≤ n) :
    s.hostReadReg n = s.recordFault .badRegister := by
  rw [State.hostReadReg, regOf_none.2 h]

theorem State.hostWriteReg_of_readOnly (s : State) {n : Nat} (v : Word) (h3 : 3 ≤ n) (h33 : n ≤ 33) :
    s.hostWriteReg n v = s.recordFault .readOnly := by
  obtain ⟨h, -⟩ | ⟨-, -, hr⟩ | ⟨h, -⟩ | ⟨h, -⟩ | ⟨h, -⟩ := s.hostWriteReg_cases n v
  case inr.inl => exact hr
  all_goals omega

theorem State.hostWriteCmd_of_reserved (s : State) {v : Word} (h : cmdReservedBits v ≠ 0#31) :
    s.hostWriteCmd v = s.recordFault .reservedCmdBits := if_pos h

theorem exec_cmdReserved (s : State) {v : Word} (h : cmdReservedBits v ≠ 0#31) :
    exec (.cmdReserved v) s = .next (s.hostWriteCmd v).retire := if_neg h

/-- Settles O28: the number's range or the value's reserved bits select the fault. -/
theorem illegalRegisterOperationsRecordFaults : Obligations.IllegalRegisterOperationsRecordFaults := by
  intro s n v
  refine ⟨fun h => ⟨?_, ?_⟩, fun h3 h33 => ?_, fun h => ⟨?_, ?_⟩⟩
  · rw [exec, execWreg, s.hostWriteReg_of_unassigned v h]
    rfl
  · rw [exec, execRreg, s.hostReadReg_of_unassigned h]
    rfl
  · rw [exec, execWreg, s.hostWriteReg_of_readOnly v h3 h33]
    rfl
  · change Host.Outcome.next (s.hostWriteCmd v).retire = _
    rw [s.hostWriteCmd_of_reserved h]
    rfl
  · rw [exec_cmdReserved s h, s.hostWriteCmd_of_reserved h]
    rfl

/-- Settles O32: the number names a register, so only a result register read while BUSY faults. -/
theorem rregReturnsTheRegister : Obligations.RregReturnsTheRegister := by
  intro s n r hn
  change Host.Outcome.next (s.hostReadReg n.toNat).retire = _
  obtain ⟨h34, -⟩ | ⟨h4, -, hb, hr⟩ | ⟨r', hn', hfree, hr⟩ := s.hostReadReg_cases n.toNat
  · rw [regOf_none.2 h34] at hn
    cases hn
  · rw [hr, if_pos ⟨h4, hb⟩]
    rfl
  · obtain rfl : r' = r := Option.some.inj (hn'.symm.trans hn)
    rw [hr, if_neg fun h => hfree h.1 h.2]
    rfl

theorem exec_wait (s : State) : exec .wait s = .next (if s.phase = .done then s.retire else s) :=
  (apply_ite Host.Outcome.next _ _ _).symm

/-- Settles O33: WAIT's two cases. -/
theorem waitHoldsUntilDone : Obligations.WaitHoldsUntilDone := exec_wait

/-- Settles O29: WBUF is the host's byte write at the word's address. -/
theorem wbufStoresOneByte : Obligations.WbufStoresOneByte := by
  intro s a d
  obtain ⟨t, rfl, hwrite⟩ := s.retire_hostWriteByte a.toNat d
  exact ⟨_, rfl, hwrite⟩

/-! ### The frame of the commands and host words (R172 to R179) -/

/-- Everything a command or host word can do to the state: hold, go on, record a fault of its own, or write what it is the
instruction for. -/
inductive InstrMove (i : Instr) (s : State) : State → Prop where
  | hold (is : i = .wait) : InstrMove i s s
  | pass : InstrMove i s s.retire
  | fault (f : HostFault) (own : f ∈ ownFaults i) : InstrMove i s (s.recordFault f).retire
  | store (a : BitVec 24) (d : Byte) (is : i = .wbuf a d) :
      InstrMove i s (s.setBuffer (s.buffer.write a.toNat d)).retire
  | setLen (v : Word) (is : i = .wreg 1#24 v) : InstrMove i s (s.setLen v).retire
  | setTsIn (v : Word) (is : i = .wreg 2#24 v) : InstrMove i s (s.setTsIn v).retire
  | start (is : i = .start ∨ i = .wreg 0#24 1#32) : InstrMove i s (s.latchInputs.setPhase .busy).retire
  | read (n : BitVec 24) (v : Word) (is : i = .rreg n) : InstrMove i s (s.returnRead v).retire

theorem InstrMove.of_startDecode {i : Instr} (s : State) (own : .startWhileBusy ∈ ownFaults i)
    (is : i = .start ∨ i = .wreg 0#24 1#32) : InstrMove i s s.startDecode.retire := by
  obtain ⟨-, hr⟩ | ⟨-, hr⟩ := s.startDecode_cases <;> rw [hr]
  · exact .fault _ own
  · exact .start is

theorem InstrMove.of_wbuf (a : BitVec 24) (d : Byte) (s : State) :
    InstrMove (.wbuf a d) s (s.hostWriteByte a.toNat d).retire := by
  obtain ⟨-, hr⟩ | ⟨-, -, hr⟩ | ⟨-, -, hr⟩ := s.hostWriteByte_cases a.toNat d <;> rw [hr]
  · exact .fault _ (by simp [ownFaults])
  · exact .fault _ (by simp [ownFaults])
  · exact .store a d rfl

theorem InstrMove.of_wregCmd (v : Word) (s : State) :
    InstrMove (.wreg 0#24 v) s (s.hostWriteCmd v).retire := by
  obtain ⟨-, hr⟩ | ⟨h0, hbit, hr⟩ | ⟨-, -, hr⟩ := s.hostWriteCmd_cases v <;> rw [hr]
  · exact .fault _ (by simp [ownFaults])
  · obtain rfl : v = 1#32 := by simpa [hbit] using cmd_values h0
    exact .of_startDecode s (by simp [ownFaults]) (.inr rfl)
  · exact .pass

theorem InstrMove.of_wreg (r : BitVec 24) (v : Word) (s : State) :
    InstrMove (.wreg r v) s (s.hostWriteReg r.toNat v).retire := by
  obtain ⟨-, hr⟩ | ⟨-, -, hr⟩ | ⟨hn, hr⟩ | ⟨hn, hr⟩ | ⟨hn, hr⟩ := s.hostWriteReg_cases r.toNat v <;> rw [hr]
  · exact .fault _ (by simp [ownFaults])
  · exact .fault _ (by simp [ownFaults])
  · obtain rfl : r = 0#24 := BitVec.eq_of_toNat_eq hn
    exact .of_wregCmd v s
  · obtain rfl : r = 1#24 := BitVec.eq_of_toNat_eq hn
    obtain ⟨-, hl⟩ | ⟨-, hl⟩ := s.hostWriteLen_cases v <;> rw [hl]
    · exact .fault _ (by simp [ownFaults])
    · exact .setLen v rfl
  · obtain rfl : r = 2#24 := BitVec.eq_of_toNat_eq hn
    exact .setTsIn v rfl

theorem InstrMove.of_rreg (n : BitVec 24) (s : State) :
    InstrMove (.rreg n) s (s.hostReadReg n.toNat).retire := by
  obtain ⟨-, hr⟩ | ⟨-, -, -, hr⟩ | ⟨r, -, -, hr⟩ := s.hostReadReg_cases n.toNat <;> rw [hr]
  · exact .fault _ (by simp [ownFaults])
  · exact .fault _ (by simp [ownFaults])
  · exact .read n _ rfl

theorem InstrMove.of_exec {i : Instr} {s t : State} (hi : isDecodePath i = false) (h : exec i s = .next t) :
    InstrMove i s t := by
  cases i
  case start =>
    cases h
    exact .of_startDecode s (by simp [ownFaults]) (.inl rfl)
  case cmdNop =>
    cases h
    exact .pass
  case cmdReserved v =>
    by_cases hv : cmdReservedBits v = 0#31
    · cases (show exec (.cmdReserved v) s = .fault .guardNotMet from if_pos hv).symm.trans h
    · rw [exec_cmdReserved s hv, s.hostWriteCmd_of_reserved hv] at h
      cases h
      exact .fault _ (by simp [ownFaults])
  case wbuf a d =>
    cases h
    exact .of_wbuf a d s
  case wreg r v =>
    cases h
    exact .of_wreg r v s
  case rreg n =>
    cases h
    exact .of_rreg n s
  case wait =>
    rw [exec_wait] at h
    cases h
    split
    · exact .pass
    · exact .hold rfl
  all_goals cases hi

section
variable {i : Instr} {s t : State} (h : InstrMove i s t)
include h

theorem InstrMove.results_lines_turn_tick :
    t.results = s.results ∧ t.lines = s.lines ∧ t.turn = s.turn ∧ t.tick = s.tick := by
  cases h <;> exact ⟨rfl, rfl, rfl, rfl⟩

theorem InstrMove.hostQueue_eq (hi : i ≠ .wait) : t.hostQueue = s.hostQueue.tail := by
  cases h with
  | hold is => exact absurd is hi
  | _ => rfl

theorem InstrMove.len_eq (hi : ∀ v, i ≠ .wreg 1#24 v) : t.len = s.len := by
  cases h with
  | setLen v is => exact absurd is (hi v)
  | _ => rfl

theorem InstrMove.tsIn_eq (hi : ∀ v, i ≠ .wreg 2#24 v) : t.tsIn = s.tsIn := by
  cases h with
  | setTsIn v is => exact absurd is (hi v)
  | _ => rfl

theorem InstrMove.phase_latches_eq (hstart : i ≠ .start) (hwrite : i ≠ .wreg 0#24 1#32) :
    t.phase = s.phase ∧ t.lenL = s.lenL ∧ t.tsL = s.tsL := by
  cases h with
  | start is => exact (is.elim hstart hwrite).elim
  | _ => exact ⟨rfl, rfl, rfl⟩

theorem InstrMove.hostReads_eq (hi : ∀ n, i ≠ .rreg n) : t.hostReads = s.hostReads := by
  cases h with
  | read n v is => exact absurd is (hi n)
  | _ => rfl

theorem InstrMove.has_eq {f : HostFault} (hf : f ∉ ownFaults i) : t.hostFaults.has f = s.hostFaults.has f := by
  cases h with
  | fault g own => exact FaultRecord.has_record_other _ fun e => hf (e ▸ own)
  | _ => rfl

theorem InstrMove.byte_eq {b : Nat} (hi : ∀ (a : BitVec 24) (d : Byte), i = .wbuf a d → b ≠ a.toNat) :
    t.byte? b = s.byte? b := by
  cases h with
  | store a d is => exact (s.byte_setBuffer_write a.toNat d b).trans (if_neg (hi a d is))
  | _ => rfl

end

/-- Settles O37: each field changes only by the move that writes it, and that move names its instruction. -/
theorem hostInstructionsFrame : Obligations.HostInstructionsFrame := by
  intro i s t hi hx
  have h := InstrMove.of_exec hi hx
  obtain ⟨hresults, hlines, hturn, htick⟩ := h.results_lines_turn_tick
  exact ⟨hresults, hlines, hturn, htick, h.len_eq, h.tsIn_eq, h.phase_latches_eq, h.hostReads_eq,
    fun _ => h.has_eq, fun _ => h.byte_eq⟩

/-! ### Why a host fault is recorded (R171) -/

/-- From `s` to `u` the host-fault record gains nothing, or one reason whose condition in R171's table holds in `s`. -/
def recordsWithCause (s u : State) : Prop :=
  u.hostFaults = s.hostFaults ∨ ∃ g, faultCause s g ∧ u.hostFaults = s.hostFaults.record g

theorem recordsWithCause.cause {s u : State} {f : HostFault} (h : recordsWithCause s u)
    (hs : s.hostFaults.has f = false) (hu : u.hostFaults.has f = true) : faultCause s f := by
  obtain he | ⟨g, hg, he⟩ := h <;> rw [he] at hu
  · simp [hs] at hu
  · obtain rfl : f = g := by simpa [FaultRecord.has_record, hs] using hu
    exact hg

section
variable {s : State} (hm : s.mover = .host)
include hm

theorem recordsWithCause_hostWriteByte {a : Nat} {d : Byte} (h : nextStores s a d) :
    recordsWithCause s (s.hostWriteByte a d).retire := by
  obtain ⟨ha, hr⟩ | ⟨-, hb, hr⟩ | ⟨-, -, hr⟩ := s.hostWriteByte_cases a d <;> rw [hr]
  · exact .inr ⟨.bufOutOfRange, ⟨hm, a, d, ha, h⟩, rfl⟩
  · exact .inr ⟨.bufWriteWhileBusy, ⟨hm, hb, a, d, h⟩, rfl⟩
  · exact .inl rfl

theorem recordsWithCause_hostWriteCmd {v : Word} (h : nextWrites s 0 v) :
    recordsWithCause s (s.hostWriteCmd v).retire := by
  obtain ⟨hv, hr⟩ | ⟨h0, hbit, hr⟩ | ⟨-, -, hr⟩ := s.hostWriteCmd_cases v <;> rw [hr]
  · exact .inr ⟨.reservedCmdBits, ⟨hm, v, hv, h⟩, rfl⟩
  · obtain rfl : v = 1#32 := by simpa [hbit] using cmd_values h0
    obtain ⟨hb, hs⟩ | ⟨-, hs⟩ := s.startDecode_cases <;> rw [hs]
    · exact .inr ⟨.startWhileBusy, ⟨hm, hb, h⟩, rfl⟩
    · exact .inl rfl
  · exact .inl rfl

theorem recordsWithCause_hostWriteReg {n : Nat} {v : Word} (h : nextWrites s n v) :
    recordsWithCause s (s.hostWriteReg n v).retire := by
  obtain ⟨h34, hr⟩ | ⟨h3, h33, hr⟩ | ⟨rfl, hr⟩ | ⟨rfl, hr⟩ | ⟨-, hr⟩ := s.hostWriteReg_cases n v <;> rw [hr]
  · exact .inr ⟨.badRegister, ⟨hm, n, h34, .inl ⟨v, h⟩⟩, rfl⟩
  · exact .inr ⟨.readOnly, ⟨hm, n, v, h3, h33, h⟩, rfl⟩
  · exact recordsWithCause_hostWriteCmd hm h
  · obtain ⟨hv, hl⟩ | ⟨-, hl⟩ := s.hostWriteLen_cases v <;> rw [hl]
    · exact .inr ⟨.lenTooLarge, ⟨hm, v, hv, h⟩, rfl⟩
    · exact .inl rfl
  · exact .inl rfl

theorem recordsWithCause_hostReadReg {n : Nat} (h : nextReads s n) :
    recordsWithCause s (s.hostReadReg n).retire := by
  obtain ⟨h34, hr⟩ | ⟨h4, h33, hb, hr⟩ | ⟨r, -, -, hr⟩ := s.hostReadReg_cases n <;> rw [hr]
  · exact .inr ⟨.badRegister, ⟨hm, n, h34, .inr h⟩, rfl⟩
  · exact .inr ⟨.readWhileBusy, ⟨hm, hb, .inl ⟨n, h4, h33, h⟩⟩, rfl⟩
  · exact .inl rfl

theorem recordsWithCause_emitLine {verbose : Bool} {rest : List HostEvent} (h : s.hostQueue = .emit verbose :: rest) :
    recordsWithCause s (s.emitLine verbose).retire := by
  obtain ⟨hb, hr⟩ | ⟨-, tokens, -, hr⟩ | ⟨-, -, hr⟩ := s.emitLine_cases verbose <;> rw [hr]
  · exact .inr ⟨.readWhileBusy, ⟨hm, hb, .inr ⟨verbose, rest, h⟩⟩, rfl⟩
  · exact .inl rfl
  · exact .inl rfl

theorem recordsWithCause_hostStep {u : State} (h : hostStep s = .next u) : recordsWithCause s u := by
  obtain ⟨-, rfl⟩ | ⟨w, rest, a, d, hq, hd, rfl⟩ | ⟨w, rest, r, v, hq, hd, rfl⟩ | ⟨w, rest, r, hq, hd, rfl⟩ |
    ⟨w, rest, -, -, ⟨-, rfl⟩ | ⟨-, rfl⟩⟩ | ⟨rest, v, hq, rfl⟩ | ⟨rest, a, d, hq, rfl⟩ | ⟨rest, -, rfl⟩ |
    ⟨rest, verbose, hq, rfl⟩ := hostStep_next h
  · exact .inl rfl
  · exact recordsWithCause_hostWriteByte hm (.inl ⟨w, rest, a, hq, hd, rfl⟩)
  · exact recordsWithCause_hostWriteReg hm (.inl ⟨w, rest, r, hq, hd, rfl⟩)
  · exact recordsWithCause_hostReadReg hm ⟨w, rest, r, hq, hd, rfl⟩
  · exact .inl rfl
  · exact .inl rfl
  · exact recordsWithCause_hostWriteCmd hm (.inr ⟨rfl, rest, hq⟩)
  · exact recordsWithCause_hostWriteByte hm (.inr ⟨rest, hq⟩)
  · exact .inl rfl
  · exact recordsWithCause_emitLine hm hq

end

theorem State.exists_unwritten {s : State} {reads : List Nat} (h : s.allWritten reads = false) :
    ∃ a ∈ reads, s.byte? a = none := by
  simpa [State.allWritten] using h

theorem recordsWithCause_blockStep {s u : State} (hm : s.mover = .block) (h : blockStep s = .next u) :
    recordsWithCause s u := by
  rw [blockStep_eq_completeWith (State.mover_block hm)] at h
  cases h
  obtain ⟨-, hr⟩ | ⟨hw, hr⟩ := s.completeWith_cases (readSet s.byteAt s.lenL.toNat)
    (doneWith s (wholeDecode s.byteAt s.lenL.toNat s.tsL)) <;> rw [hr]
  · exact .inl rfl
  · exact .inr ⟨.unwrittenByte, ⟨hm, State.exists_unwritten hw⟩, rfl⟩

/-- Settles O47: every operation of the host, and COMPLETE, records a fault only with its cause, and drawing the turn
records none. -/
theorem hostFaultsHaveTheirCauses : Obligations.HostFaultsHaveTheirCauses := by
  intro s t f h
  cases hm : s.mover with
  | host =>
    rw [step_eq_of_host hm] at h
    obtain ⟨u, hu, rfl⟩ := afterMove_next h
    exact (recordsWithCause_hostStep hm hu).cause
  | block =>
    rw [step_eq_of_block hm] at h
    obtain ⟨u, hu, rfl⟩ := afterMove_next h
    exact (recordsWithCause_blockStep hm hu).cause

/-! ### Which agent moves, and that a decode ends (R179, R180) -/

theorem State.hostHolds_iff (s : State) : s.hostHolds = true ↔ hostWaits s := by
  unfold State.hostHolds hostWaits
  cases s.hostQueue with
  | nil => simp
  | cons e rest => cases e <;> simp

theorem State.mover_eq_block_iff (s : State) :
    s.mover = .block ↔ s.phase = .busy ∧ (hostWaits s ∨ s.turn = .block) := by
  rw [← s.hostHolds_iff]
  unfold State.mover
  cases s.phase
  case busy => cases s.hostHolds <;> simp
  all_goals simp

/-- The block's step always completes (R180). -/
theorem step_completes {s : State} (hm : s.mover = .block) : ∃ t, step s = .next t ∧ t.phase = .done := by
  have hb := State.mover_block hm
  have hx := blockStep_eq_completeWith hb
  exact ⟨_, (step_eq_of_block hm).trans (congrArg afterMove hx),
    (blockStep_next hb hx).elim (congrArg State.phase) (congrArg State.phase)⟩

/-- Settles O50: the scheduler's cases, and COMPLETE's two outcomes. -/
theorem blockMovesWhileBusyAndCompletes : Obligations.BlockMovesWhileBusyAndCompletes :=
  fun s => ⟨s.mover_eq_block_iff, step_completes⟩

theorem State.hostWriteByte_hostQueue (s : State) (a : Nat) (d : Byte) :
    (s.hostWriteByte a d).hostQueue = s.hostQueue := by
  obtain ⟨-, hr⟩ | ⟨-, -, hr⟩ | ⟨-, -, hr⟩ := s.hostWriteByte_cases a d <;> rw [hr] <;> rfl

theorem State.emitLine_hostQueue (s : State) (verbose : Bool) :
    (s.emitLine verbose).hostQueue = s.hostQueue := by
  obtain ⟨-, hr⟩ | ⟨-, tokens, -, hr⟩ | ⟨-, -, hr⟩ := s.emitLine_cases verbose <;> rw [hr] <;> rfl

/-- A host that does not wait goes on to its next event. -/
theorem hostStep_hostQueue {s u : State} (hw : ¬ hostWaits s) (h : hostStep s = .next u) :
    u.hostQueue = s.hostQueue.tail := by
  obtain ⟨hq, -⟩ | ⟨w, rest, a, d, -, -, rfl⟩ | ⟨w, rest, r, v, -, -, rfl⟩ | ⟨w, rest, r, -, -, rfl⟩ |
    ⟨w, rest, hq, hd, -⟩ | ⟨rest, v, -, rfl⟩ | ⟨rest, a, d, -, rfl⟩ | ⟨rest, -, rfl⟩ |
    ⟨rest, verbose, -, rfl⟩ := hostStep_next h
  · exact absurd (.inl hq) hw
  · exact (InstrMove.of_wbuf a d s).hostQueue_eq nofun
  · exact (InstrMove.of_wreg r v s).hostQueue_eq nofun
  · exact (InstrMove.of_rreg r s).hostQueue_eq nofun
  · exact absurd (.inr ⟨w, rest, hq, hd⟩) hw
  · exact (InstrMove.of_wregCmd v s).hostQueue_eq nofun
  · exact congrArg List.tail (s.hostWriteByte_hostQueue _ _)
  · rfl
  · exact congrArg List.tail (s.emitLine_hostQueue _)

/-- Every pending host word spells an operation. -/
def pendingWordsSpell (q : List HostEvent) : Prop := ∀ w, HostEvent.word w ∈ q → ∃ i, decodeHostWord w = .ok i

theorem not_nextRefused {s : State} {why : HostWordReject} (h : pendingWordsSpell s.hostQueue) :
    ¬ nextRefused s why := by
  rintro ⟨w, rest, hq, hd⟩
  obtain ⟨i, hi⟩ := h w (by simp [hq])
  cases hd.symm.trans hi

/-- While BUSY, a step completes the decode or takes one event from the host's queue. -/
theorem step_busy {s : State} (hb : s.phase = .busy) (hq : pendingWordsSpell s.hostQueue) :
    ∃ t, step s = .next t ∧ (t.phase = .done ∨ s.hostQueue ≠ [] ∧ t.hostQueue = s.hostQueue.tail) := by
  cases hm : s.mover with
  | block =>
    obtain ⟨t, ht, hdone⟩ := step_completes hm
    exact ⟨t, ht, .inl hdone⟩
  | host =>
    have hw : ¬ hostWaits s := by
      intro hw
      cases hm.symm.trans (s.mover_eq_block_iff.2 ⟨hb, .inl hw⟩)
    obtain ⟨u, hu⟩ | ⟨why, hr, -⟩ := hostStep_next_or_refused s
    · have hqu : u.hostQueue = s.hostQueue.tail := hostStep_hostQueue hw hu
      exact ⟨u.drawTurn, (step_eq_of_host hm).trans (congrArg afterMove hu), .inr ⟨fun h => hw (.inl h), hqu⟩⟩
    · exact absurd hr (not_nextRefused hq)

theorem run_succ_of_step (M : Host.Core) {s u : M.State} (h : M.step s = .next u) (k : Nat) :
    M.run (k + 1) s = M.run k u := by
  rw [Host.Core.run, h]

/-- Settles O51, by induction on the host's queue: each step completes the decode or shortens the queue, and where the queue
is empty the block moves. -/
theorem everyDecodeEnds : Obligations.EveryDecodeEnds := by
  intro s hb hwords
  induction hq : s.hostQueue generalizing s with
  | nil =>
    obtain ⟨t, ht, hdone | ⟨hne, -⟩⟩ := step_busy hb hwords
    · exact ⟨1, t, le_rfl, run_succ_of_step core ht 0, by simp [hdone]⟩
    · exact absurd hq hne
  | cons e rest ih =>
    obtain ⟨t, ht, ht'⟩ := step_busy hb hwords
    by_cases htb : t.phase = .busy
    · have htq : t.hostQueue = rest := by simpa [htb, hq] using ht'
      obtain ⟨k, v, hk, hrun, hv⟩ := ih t htb (fun w hw => hwords w (by simp [hq, ← htq, hw])) htq
      exact ⟨k + 1, v, Nat.succ_le_succ hk, (run_succ_of_step core ht k).trans hrun, hv⟩
    · exact ⟨1, t, by simp, run_succ_of_step core ht 0, htb⟩

end Sys2Proof.Machine
end

section
/-! ## The reference formatter and the capture loop (R182 to R194) -/

namespace Sys2Proof.Machine
open Sys2Proof.Claims

/-! ### The tokens of a line -/

/-- A line is that of its two addresses and of the tokens of its class (R183). -/
theorem formatTokens_of_ok (r : Results) (verbose : Bool) (h : r.err = .ok) :
    formatTokens r verbose = some (lineTokens r verbose (addressToken r.cls r.srcAddr r.srcPort)
      (addressToken r.cls r.dstAddr r.dstPort) (transportTokens r verbose)) := if_pos h

theorem formatTokens_eq_some_iff (r : Results) (verbose : Bool) :
    (∃ tokens, formatTokens r verbose = some tokens) ↔ r.err = .ok := by
  by_cases h : r.err = .ok
  · simp [formatTokens_of_ok r verbose h, h]
  · simp [formatTokens, h]

/-- Settles O54: the flag decides the last part of the line alone, and no part looks at the other two bits. -/
theorem dontFragmentIsTheLastToken : Obligations.DontFragmentIsTheLastToken := by
  intro r verbose h
  refine ⟨⟨_, formatTokens_of_ok { r with flagDf := 0#1 } verbose h, ?_⟩, fun _ _ => rfl⟩
  rw [formatTokens_of_ok { r with flagDf := 1#1 } verbose h]
  simp only [lineTokens, BitVec.reduceEq, if_true, if_false, List.append_nil]
  rfl

/-- One entry of the flag table prints its name if its bit is set. -/
theorem flagTokens_cons (flags : BitVec 6) (name : String) (k : Nat) (entries : List (String × Nat)) :
    ((((name, k) :: entries).filter fun entry => flags.getLsbD entry.2).map fun entry => entry.1) =
      (if flags.getLsbD k = true then [name] else []) ++
        (entries.filter fun entry => flags.getLsbD entry.2).map fun entry => entry.1 := by
  by_cases h : flags.getLsbD k = true <;> simp [h]

theorem tcpFlagTokens_eq (flags : BitVec 6) :
    tcpFlagTokens flags =
      (if flags.getLsbD 0 = true then ["FIN"] else []) ++ (if flags.getLsbD 1 = true then ["SYN"] else []) ++
        (if flags.getLsbD 2 = true then ["RST"] else []) ++ (if flags.getLsbD 3 = true then ["PSH"] else []) ++
        (if flags.getLsbD 4 = true then ["ACK"] else []) ++ (if flags.getLsbD 5 = true then ["URG"] else []) := by
  have htable : tcpFlagNames.zipIdx = [("FIN", 0), ("SYN", 1), ("RST", 2), ("PSH", 3), ("ACK", 4), ("URG", 5)] := rfl
  simp only [tcpFlagTokens, htable, flagTokens_cons, List.filter_nil, List.map_nil, List.append_nil, List.append_assoc]

theorem transportTokens_icmp {r : Results} (verbose : Bool) (h : r.cls = .icmp) :
    transportTokens r verbose = ["type", decimal r.icmpType.toNat, "code", decimal r.icmpCode.toNat] ++
      (if r.icmpType = 0#8 then ["[echo reply]"]
       else if r.icmpType = 8#8 then ["[echo request]"]
       else if r.icmpType = 3#8 then ["[destination unreachable]"]
       else if r.icmpType = 5#8 then ["[redirect]"]
       else if r.icmpType = 1#8 then ["[time exceeded]"] else []) := by
  simp only [transportTokens, h, icmpDescription]
  split_ifs <;> rfl

theorem transportTokens_tcp {r : Results} (verbose : Bool) (h : r.cls = .tcp) :
    transportTokens r verbose = tcpFlagTokens r.tcpFlags ++ (if verbose = true then
      ["seq", decimal r.tcpSeq.toNat, "ack", decimal r.tcpAck.toNat, "win", decimal r.tcpWin.toNat] else []) := by
  simp only [transportTokens, h]

theorem transportTokens_udp {r : Results} (verbose : Bool) (h : r.cls = .udp) : transportTokens r verbose = [] := by
  simp only [transportTokens, h]

theorem transportTokens_other {r : Results} (verbose : Bool) (h : r.cls = .other) : transportTokens r verbose = [] := by
  simp only [transportTokens, h]

/-- Settles O55: the class decides whether the addresses show ports and which tokens stand between them and the rest. -/
theorem linesHaveTheTokensOfTheirClass : Obligations.LinesHaveTheTokensOfTheirClass := by
  intro r verbose hok
  rw [formatTokens_of_ok r verbose hok]
  refine ⟨fun h => ?_, fun h => ?_, fun h => ?_, fun h => ?_⟩
  · rw [transportTokens_tcp verbose h, tcpFlagTokens_eq, h]
    rfl
  · rw [transportTokens_udp verbose h, h]
    rfl
  · rw [transportTokens_icmp verbose h, h]
    rfl
  · rw [transportTokens_other verbose h, h]
    rfl

theorem transportTokens_sublist (r : Results) : (transportTokens r false).Sublist (transportTokens r true) := by
  cases h : r.cls with
  | tcp =>
    rw [transportTokens_tcp _ h, transportTokens_tcp _ h]
    exact (List.Sublist.refl _).append (List.nil_sublist _)
  | udp => rw [transportTokens_udp _ h, transportTokens_udp _ h]
  | icmp => rw [transportTokens_icmp _ h, transportTokens_icmp _ h]
  | other => rw [transportTokens_other _ h, transportTokens_other _ h]

/-- Settles O56: part by part, the short line is a sublist of the verbose one. -/
theorem verboseOnlyAddsTokens : Obligations.VerboseOnlyAddsTokens := by
  intro r short long hs hl
  have hok := (formatTokens_eq_some_iff r false).1 ⟨short, hs⟩
  rw [formatTokens_of_ok r _ hok] at hs hl
  cases hs
  cases hl
  exact (((List.Sublist.refl _).append (transportTokens_sublist r)).append (List.nil_sublist _)).append (.refl _)

/-! ### The capture loop's output step -/

/-- What the output step leaves, in every phase (R178, R182; log 20). -/
theorem State.emitLine_eq (s : State) (verbose : Bool) :
    s.emitLine verbose = { s with
      lines := if s.phase = .done then s.lines ++ (formatTokens s.results verbose).toList else s.lines
      hostFaults := if s.phase = .busy then s.hostFaults.record .readWhileBusy else s.hostFaults } := by
  obtain ⟨hb, hr⟩ | ⟨hd, tokens, hf, hr⟩ | ⟨hb, hf, hr⟩ := s.emitLine_cases verbose <;> rw [hr]
  · simp [hb, State.recordFault]
  · simp [hd, hf, State.writeLine]
  · by_cases hd : s.phase = .done
    · simp only [if_pos hd, hf hd, Option.toList_none, List.append_nil, if_neg hb]
    · simp only [if_neg hd, if_neg hb]

theorem hostStep_emit {s : State} {verbose : Bool} {rest : List HostEvent}
    (hq : s.hostQueue = .emit verbose :: rest) : hostStep s = .next (s.emitLine verbose).retire := by
  simp [hostStep, hq]

/-- Settles O57: the host's step is the output step, and a line is formatted exactly for a success. -/
theorem captureLoopWritesOnlyDecodedPackets : Obligations.CaptureLoopWritesOnlyDecodedPackets := by
  refine ⟨fun s verbose rest hm hq => ?_, formatTokens_eq_some_iff⟩
  rw [step_eq_of_host hm, hostStep_emit hq, s.emitLine_eq]
  simp only [State.retire, hq, List.tail_cons]
  rfl

end Sys2Proof.Machine
end

section
/-! ## The error a decode reports, and its causes (R201 to R205) -/

namespace Sys2Proof.Machine

/-! ### The error of a rejected and of an accepted header (R104, R107, R133 to R137) -/

/-- The header is accepted exactly with version 4 and a length of 5 words or more that fits. -/
theorem headerPath_eq_none_iff {len : Nat} {vb : Byte} :
    headerPath len vb = none ↔ versionOf vb = 4#4 ∧ 5 ≤ (ihlOf vb).toNat ∧ hdrBytesOf (ihlOf vb) ≤ len := by
  refine ⟨headerPath_eq_none, fun ⟨hv, h5, hfits⟩ => ?_⟩
  simp [headerPath, hv, Nat.not_lt.2 hfits, ne_four_of_high h5, show ¬ (ihlOf vb).toNat < 4 by omega]

theorem wholeDecode_err_rejected {B : Nat → Byte} {L : Nat} (T : Word) (hL : 20 ≤ L) (hp : headerPath L (B 0) ≠ none) :
    (wholeDecode B L T).err = if versionOf (B 0) = 4#4 then .malformedHeader else .unsupportedVersion := by
  obtain ⟨i, hi⟩ := Option.ne_none_iff_exists'.1 hp
  rw [wholeDecode_rejected T hL hi]
  rfl

theorem wholeDecode_err_accepted {B : Nat → Byte} {L : Nat} (T : Word) (hL : 20 ≤ L) (hp : headerPath L (B 0) = none) :
    (wholeDecode B L T).err =
      if L - hdrBytesOf (ihlOf (B 0)) < transportNeed (classOf (B 9)) then .truncated else .ok := by
  rw [wholeDecode_accepted T hL hp]
  split <;> rfl

theorem transportNeed_classOf (p : Byte) :
    transportNeed (classOf p) = if p = 6#8 then 16 else if p = 17#8 then 6 else if p = 1#8 then 2 else 0 := by
  obtain ⟨rfl, -⟩ | ⟨rfl, -⟩ | ⟨rfl, -⟩ | ⟨h6, h17, h1, hc⟩ := classOf_cases p
  · rfl
  · rfl
  · rfl
  · rw [hc, if_neg h6, if_neg h17, if_neg h1, transportNeed]

/-- Settles O22: a packet of 20 bytes or more is rejected by its header, for its version before its header length, or
accepted and then short of transport bytes or not. -/
theorem errorPriority : Obligations.ErrorPriority := by
  refine fun B L T => ⟨fun short => ?_, fun long hv => ?_, fun long hv hbad => ?_, fun long hv h5 hfits => ?_⟩
  · rw [wholeDecode_short B T short]
    rfl
  · rw [wholeDecode_err_rejected T long fun hp => hv (headerPath_eq_none hp).1]
    exact if_neg hv
  · have hp : headerPath L (B 0) ≠ none := by
      intro hp
      obtain ⟨-, h5, hfits⟩ := headerPath_eq_none hp
      exact hbad.elim (Nat.not_lt.2 h5) (Nat.not_lt.2 hfits)
    rw [wholeDecode_err_rejected T long hp]
    exact if_pos hv
  · rw [wholeDecode_err_accepted T long (headerPath_eq_none_iff.2 ⟨hv, h5, hfits⟩), transportNeed_classOf]
    rfl

/-! ### The causes of each error (R201 to R203) -/

/-- The four premises of the priority exclude each other and leave out no packet. -/
theorem wholeDecode_err_cases (B : Nat → Byte) (L : Nat) (T : Word) :
    (L < 20 ∧ (wholeDecode B L T).err = .truncated) ∨
    (20 ≤ L ∧ versionOf (B 0) ≠ 4#4 ∧ (wholeDecode B L T).err = .unsupportedVersion) ∨
    (20 ≤ L ∧ versionOf (B 0) = 4#4 ∧ ((ihlOf (B 0)).toNat < 5 ∨ L < hdrBytesOf (ihlOf (B 0))) ∧
      (wholeDecode B L T).err = .malformedHeader) ∨
    (20 ≤ L ∧ versionOf (B 0) = 4#4 ∧ 5 ≤ (ihlOf (B 0)).toNat ∧ hdrBytesOf (ihlOf (B 0)) ≤ L ∧
      (wholeDecode B L T).err =
        if L - hdrBytesOf (ihlOf (B 0)) < transportNeed (classOf (B 9)) then .truncated else .ok) := by
  obtain ⟨hshort, hversion, hheader, -⟩ := errorPriority B L T
  obtain short | long := Nat.lt_or_ge L 20
  · exact .inl ⟨short, hshort short⟩
  by_cases hv : versionOf (B 0) = 4#4
  · by_cases hbad : (ihlOf (B 0)).toNat < 5 ∨ L < hdrBytesOf (ihlOf (B 0))
    · exact .inr (.inr (.inl ⟨long, hv, hbad, hheader long hv hbad⟩))
    · obtain ⟨h5, hfits⟩ : 5 ≤ (ihlOf (B 0)).toNat ∧ hdrBytesOf (ihlOf (B 0)) ≤ L := by omega
      exact .inr (.inr (.inr ⟨long, hv, h5, hfits,
        wholeDecode_err_accepted T long (headerPath_eq_none_iff.2 ⟨hv, h5, hfits⟩)⟩))
  · exact .inr (.inl ⟨long, hv, hversion long hv⟩)

/-- The transport bytes are too few for the class exactly in the three cases of R201. -/
theorem lt_transportNeed_iff (n : Nat) (p : Byte) :
    n < transportNeed (classOf p) ↔ (p = 6#8 ∧ n < 16) ∨ (p = 17#8 ∧ n < 6) ∨ (p = 1#8 ∧ n < 2) := by
  obtain ⟨rfl, hc⟩ | ⟨rfl, hc⟩ | ⟨rfl, hc⟩ | ⟨h6, h17, h1, hc⟩ := classOf_cases p
  all_goals simp [transportNeed, *]

theorem versionError_iff (B : Nat → Byte) (L : Nat) (T : Word) :
    (wholeDecode B L T).err = .unsupportedVersion ↔ 20 ≤ L ∧ versionOf (B 0) ≠ 4#4 := by
  obtain ⟨short, he⟩ | ⟨long, hv, he⟩ | ⟨-, hv, -, he⟩ | ⟨-, hv, -, -, he⟩ := wholeDecode_err_cases B L T <;> rw [he]
  · simp [Nat.not_le.2 short]
  · simp [long, hv]
  · simp [hv]
  · simp only [hv, ne_eq, not_true_eq_false, and_false, iff_false]
    split <;> nofun

theorem headerError_iff (B : Nat → Byte) (L : Nat) (T : Word) :
    (wholeDecode B L T).err = .malformedHeader ↔
      20 ≤ L ∧ versionOf (B 0) = 4#4 ∧ ((ihlOf (B 0)).toNat < 5 ∨ L < hdrBytesOf (ihlOf (B 0))) := by
  obtain ⟨short, he⟩ | ⟨-, hv, he⟩ | ⟨long, hv, hbad, he⟩ | ⟨-, -, h5, hfits, he⟩ := wholeDecode_err_cases B L T <;>
    rw [he]
  · simp [Nat.not_le.2 short]
  · simp [hv]
  · simp only [long, hv, hbad, and_self]
  · simp only [Nat.not_lt.2 h5, Nat.not_lt.2 hfits, or_self, and_false, iff_false]
    split <;> nofun

/-- Settles O23: of the four cases the error stands in one. -/
theorem versionAndHeaderErrorsHaveExactlyTheirCauses : Obligations.VersionAndHeaderErrorsHaveExactlyTheirCauses :=
  fun B L T => ⟨versionError_iff B L T, headerError_iff B L T⟩

theorem truncated_iff (B : Nat → Byte) (L : Nat) (T : Word) :
    (wholeDecode B L T).err = .truncated ↔
      L < 20 ∨ (versionOf (B 0) = 4#4 ∧ 5 ≤ (ihlOf (B 0)).toNat ∧ hdrBytesOf (ihlOf (B 0)) ≤ L ∧
        L - hdrBytesOf (ihlOf (B 0)) < transportNeed (classOf (B 9))) := by
  obtain ⟨short, he⟩ | ⟨long, hv, he⟩ | ⟨long, -, hbad, he⟩ | ⟨long, hv, h5, hfits, he⟩ :=
    wholeDecode_err_cases B L T <;> rw [he]
  · simp [short]
  · simp [Nat.not_lt.2 long, hv]
  · simp only [reduceCtorEq, false_iff]
    omega
  · simp [Nat.not_lt.2 long, hv, h5, hfits]

/-- Settles O24: a short packet, or an accepted header with too few transport bytes for its class. -/
theorem truncatedHasExactlyFourCauses : Obligations.TruncatedHasExactlyFourCauses := by
  intro B L T
  rw [truncated_iff, lt_transportNeed_iff]
  rfl

end Sys2Proof.Machine
end
